-- ==== Sys2Proof/Word.lean ====
section
/-! DEFINITION. The word types of the CHIP-8 core (00_scope.md R6, R7): bytes, 16-bit words, register
numbers, display rows, key codes. Every value is unsigned (R7, R130). -/

namespace Sys2Proof

/-- An 8-bit unsigned value: a general register, a timer, a memory byte (R6 `XLEN`, `TIMER_WIDTH`). -/
abbrev Byte := BitVec 8

/-- A 16-bit unsigned value: `I`, `pc`, a stack entry, an instruction word, `FINFO`
(R6 `IWIDTH`, `PCWIDTH`, `ILEN`). -/
abbrev Word := BitVec 16

/-- The number of a general register, 0x0 to 0xF (R6 `NREG`, R21). -/
abbrev RegIx := Fin 16

/-- The number of `VF`, the flag register (R22). -/
abbrev vf : RegIx := 15

/-- A 12-bit immediate address `nnn` (R72). -/
abbrev Addr12 := BitVec 12

/-- One row of the display: 64 one-bit pixels, bit `px` is the pixel in column `px` (R33). -/
abbrev PixelRow := BitVec 64

/-- A pixel column 0 to 63 and a pixel row 0 to 31 (R33). -/
abbrev PixelX := Fin 64
abbrev PixelY := Fin 32

/-- The level input `KEYS`: bit `k` is 1 while key `k` is down (R34). -/
abbrev KeyLevels := BitVec 16

end Sys2Proof
end

