-- ==== Sys2Proof/Syntax.lean ====
section
/-! DEFINITION. The 34 instructions of the opcode map (30_encoding.md R78), one constructor a row of
spec/opcode_table.json. Ignored fields are no operands: R79 makes the words that differ only in them the
same instruction. -/

namespace Sys2Proof

/-- An instruction of R78. `x`, `y` are register numbers, `kk` the immediate byte, `nnn` the 12-bit
immediate address, `n` the sprite height (R72). -/
inductive Instr where
  /-- `00E0` CLS (R100) -/
  | cls
  /-- `00EE` RET (R101) -/
  | ret
  /-- `1nnn` JP nnn (R102) -/
  | jp (nnn : Addr12)
  /-- `2nnn` CALL nnn (R103) -/
  | call (nnn : Addr12)
  /-- `3xkk` SE Vx, kk (R104) -/
  | seImm (x : RegIx) (kk : Byte)
  /-- `4xkk` SNE Vx, kk (R105) -/
  | sneImm (x : RegIx) (kk : Byte)
  /-- `5xy_` SE Vx, Vy (R106) -/
  | seReg (x y : RegIx)
  /-- `6xkk` LD Vx, kk (R107) -/
  | ldImm (x : RegIx) (kk : Byte)
  /-- `7xkk` ADD Vx, kk (R108) -/
  | addImm (x : RegIx) (kk : Byte)
  /-- `8xy0` LD Vx, Vy (R121) -/
  | ldReg (x y : RegIx)
  /-- `8xy1` OR Vx, Vy (R122) -/
  | orReg (x y : RegIx)
  /-- `8xy2` AND Vx, Vy (R123) -/
  | andReg (x y : RegIx)
  /-- `8xy3` XOR Vx, Vy (R124) -/
  | xorReg (x y : RegIx)
  /-- `8xy4` ADD Vx, Vy (R125) -/
  | addReg (x y : RegIx)
  /-- `8xy5` SUB Vx, Vy (R126) -/
  | sub (x y : RegIx)
  /-- `8xy6` SHR Vx (R127) -/
  | shr (x : RegIx)
  /-- `8xy7` SUBN Vx, Vy (R128) -/
  | subn (x y : RegIx)
  /-- `8xyE` SHL Vx (R129) -/
  | shl (x : RegIx)
  /-- `9xy_` SNE Vx, Vy (R140) -/
  | sneReg (x y : RegIx)
  /-- `Annn` LD I, nnn (R141) -/
  | ldI (nnn : Addr12)
  /-- `Bnnn` JP V0, nnn (R142) -/
  | jpV0 (nnn : Addr12)
  /-- `Cxkk` RND Vx, kk (R143) -/
  | rnd (x : RegIx) (kk : Byte)
  /-- `Dxyn` DRW Vx, Vy, n (R150) -/
  | drw (x y : RegIx) (n : Nat)
  /-- `Ex9E` SKP Vx (R160) -/
  | skp (x : RegIx)
  /-- `ExA1` SKNP Vx (R161) -/
  | sknp (x : RegIx)
  /-- `Fx07` LD Vx, DT (R170) -/
  | ldFromDT (x : RegIx)
  /-- `Fx0A` LD Vx, K (R171) -/
  | ldKey (x : RegIx)
  /-- `Fx15` LD DT, Vx (R172) -/
  | ldToDT (x : RegIx)
  /-- `Fx18` LD ST, Vx (R173) -/
  | ldToST (x : RegIx)
  /-- `Fx1E` ADD I, Vx (R174) -/
  | addI (x : RegIx)
  /-- `Fx29` LD F, Vx (R175) -/
  | ldFont (x : RegIx)
  /-- `Fx33` LD B, Vx (R176) -/
  | ldBcd (x : RegIx)
  /-- `Fx55` LD [I], Vx (R177) -/
  | store (x : RegIx)
  /-- `Fx65` LD Vx, [I] (R178) -/
  | load (x : RegIx)
  deriving DecidableEq, Repr

end Sys2Proof
end

