-- ==== Sys2Proof/WellFormed.lean ====
section
/-! DEFINITION. Which instruction terms have a word (30_encoding.md R72). Register numbers, immediate bytes
and immediate addresses have their range in their type; the sprite height is a count (R73) with a range to
check. -/

namespace Sys2Proof

/-- An instruction whose operands fit its fields: the height of `Dxyn` is a 4-bit count (R72, R73). -/
def Instr.wf : Instr → Bool
  | .drw _ _ n => decide (n ≤ 15)
  | .cls | .ret | .jp _ | .call _ | .seImm _ _ | .sneImm _ _ | .seReg _ _ | .ldImm _ _ | .addImm _ _ => true
  | .ldReg _ _ | .orReg _ _ | .andReg _ _ | .xorReg _ _ | .addReg _ _ | .sub _ _ | .shr _ | .subn _ _ | .shl _ => true
  | .sneReg _ _ | .ldI _ | .jpV0 _ | .rnd _ _ | .skp _ | .sknp _ => true
  | .ldFromDT _ | .ldKey _ | .ldToDT _ | .ldToST _ | .addI _ | .ldFont _ | .ldBcd _ | .store _ | .load _ => true

end Sys2Proof
end

