-- ==== Sys2Proof/Decode.lean ====
section
/-! DEFINITION. Fields, decoder, opcode rows and encoder (30_encoding.md R70 to R86). The decoder follows
R75, the rows follow R78, the encoder follows R86; the three are written separately and agree by proof. -/

namespace Sys2Proof

/-! ### Fields of an instruction word (R72) -/

/-- `op = w[15:12]`. -/
def fieldOp (w : Word) : Nat := (w.extractLsb' 12 4).toNat

/-- `x = w[11:8]`. -/
def fieldX (w : Word) : RegIx := (w.extractLsb' 8 4).toFin

/-- `y = w[7:4]`. -/
def fieldY (w : Word) : RegIx := (w.extractLsb' 4 4).toFin

/-- `n = w[3:0]`. -/
def fieldN (w : Word) : Nat := (w.extractLsb' 0 4).toNat

/-- `kk = w[7:0]`. -/
def fieldKK (w : Word) : Byte := w.extractLsb' 0 8

/-- `nnn = w[11:0]`. -/
def fieldNNN (w : Word) : Addr12 := w.extractLsb' 0 12

/-! ### Decode (R75, R80) -/

/-- Why the decoder rejects: the four sets of illegal words of R80, or fewer than the two bytes that every
instruction has (R70). -/
inductive Reject where
  /-- family 0 other than `00E0`, `00EE` -/
  | family0
  /-- family 8 with function nibble 8, 9, A, B, C, D or F -/
  | family8
  /-- family E with function byte other than 9E, A1 -/
  | familyE
  /-- family F with a function byte outside the nine -/
  | familyF
  /-- fewer than two bytes -/
  | truncated
  deriving DecidableEq, Repr

/-- What a word decodes to: one of the 34 instructions, or illegal (R75). -/
inductive Decoded where
  | instr (i : Instr)
  | illegal (r : Reject)
  deriving DecidableEq, Repr

/-- Family 0 matches the whole word (R75). -/
def decode0 (w : Word) : Decoded :=
  if w = 0x00E0 then .instr .cls
  else if w = 0x00EE then .instr .ret
  else .illegal .family0

/-- Family 8 matches the low nibble (R75). -/
def decode8 (w : Word) : Decoded :=
  match fieldN w with
  | 0x0 => .instr (.ldReg (fieldX w) (fieldY w))
  | 0x1 => .instr (.orReg (fieldX w) (fieldY w))
  | 0x2 => .instr (.andReg (fieldX w) (fieldY w))
  | 0x3 => .instr (.xorReg (fieldX w) (fieldY w))
  | 0x4 => .instr (.addReg (fieldX w) (fieldY w))
  | 0x5 => .instr (.sub (fieldX w) (fieldY w))
  | 0x6 => .instr (.shr (fieldX w))
  | 0x7 => .instr (.subn (fieldX w) (fieldY w))
  | 0xE => .instr (.shl (fieldX w))
  | _ => .illegal .family8

/-- Family E matches the low byte (R75). -/
def decodeE (w : Word) : Decoded :=
  match (fieldKK w).toNat with
  | 0x9E => .instr (.skp (fieldX w))
  | 0xA1 => .instr (.sknp (fieldX w))
  | _ => .illegal .familyE

/-- Family F matches the low byte (R75). -/
def decodeF (w : Word) : Decoded :=
  match (fieldKK w).toNat with
  | 0x07 => .instr (.ldFromDT (fieldX w))
  | 0x0A => .instr (.ldKey (fieldX w))
  | 0x15 => .instr (.ldToDT (fieldX w))
  | 0x18 => .instr (.ldToST (fieldX w))
  | 0x1E => .instr (.addI (fieldX w))
  | 0x29 => .instr (.ldFont (fieldX w))
  | 0x33 => .instr (.ldBcd (fieldX w))
  | 0x55 => .instr (.store (fieldX w))
  | 0x65 => .instr (.load (fieldX w))
  | _ => .illegal .familyF

/-- Decode (R75): a total function from the 65536 words to the 34 instructions plus illegal. `op` has four
bits, so the last arm is family F. -/
def decodeWord (w : Word) : Decoded :=
  match fieldOp w with
  | 0x0 => decode0 w
  | 0x1 => .instr (.jp (fieldNNN w))
  | 0x2 => .instr (.call (fieldNNN w))
  | 0x3 => .instr (.seImm (fieldX w) (fieldKK w))
  | 0x4 => .instr (.sneImm (fieldX w) (fieldKK w))
  | 0x5 => .instr (.seReg (fieldX w) (fieldY w))
  | 0x6 => .instr (.ldImm (fieldX w) (fieldKK w))
  | 0x7 => .instr (.addImm (fieldX w) (fieldKK w))
  | 0x8 => decode8 w
  | 0x9 => .instr (.sneReg (fieldX w) (fieldY w))
  | 0xA => .instr (.ldI (fieldNNN w))
  | 0xB => .instr (.jpV0 (fieldNNN w))
  | 0xC => .instr (.rnd (fieldX w) (fieldKK w))
  | 0xD => .instr (.drw (fieldX w) (fieldY w) (fieldN w))
  | 0xE => decodeE w
  | _ => decodeF w

/-! ### Byte order (R54, R57) -/

/-- The 16-bit word of two consecutive bytes, the one at the lower address first: big-endian (R54). -/
def wordOfBytes (hi lo : Byte) : Word := hi ++ lo

/-- Bits 15-8 of a word: the byte at the lower address (R54). -/
def highByte (w : Word) : Byte := w.extractLsb' 8 8

/-- Bits 7-0 of a word: the byte at the higher address (R54). -/
def lowByte (w : Word) : Byte := w.extractLsb' 0 8

/-- Decode from a sequence of bytes: what the first two bytes stand for, and the rest (R70). -/
def decodeBytes : List Byte → Decoded × List Byte
  | hi :: lo :: rest => (decodeWord (wordOfBytes hi lo), rest)
  | short => (.illegal .truncated, short)

/-! ### The opcode map (R78) -/

/-- A row of the opcode map: a word `w` selects it iff `w AND mask = match` (R78). -/
structure OpcodeRow where
  mask : Word
  pattern : Word
  deriving DecidableEq, Repr

/-- Does the word select the row? (R78) -/
def OpcodeRow.selects (r : OpcodeRow) (w : Word) : Bool := w &&& r.mask == r.pattern

/-- The row of R78 that an instruction belongs to. -/
def opcodeRow : Instr → OpcodeRow
  | .cls => ⟨0xFFFF, 0x00E0⟩
  | .ret => ⟨0xFFFF, 0x00EE⟩
  | .jp _ => ⟨0xF000, 0x1000⟩
  | .call _ => ⟨0xF000, 0x2000⟩
  | .seImm _ _ => ⟨0xF000, 0x3000⟩
  | .sneImm _ _ => ⟨0xF000, 0x4000⟩
  | .seReg _ _ => ⟨0xF000, 0x5000⟩
  | .ldImm _ _ => ⟨0xF000, 0x6000⟩
  | .addImm _ _ => ⟨0xF000, 0x7000⟩
  | .ldReg _ _ => ⟨0xF00F, 0x8000⟩
  | .orReg _ _ => ⟨0xF00F, 0x8001⟩
  | .andReg _ _ => ⟨0xF00F, 0x8002⟩
  | .xorReg _ _ => ⟨0xF00F, 0x8003⟩
  | .addReg _ _ => ⟨0xF00F, 0x8004⟩
  | .sub _ _ => ⟨0xF00F, 0x8005⟩
  | .shr _ => ⟨0xF00F, 0x8006⟩
  | .subn _ _ => ⟨0xF00F, 0x8007⟩
  | .shl _ => ⟨0xF00F, 0x800E⟩
  | .sneReg _ _ => ⟨0xF000, 0x9000⟩
  | .ldI _ => ⟨0xF000, 0xA000⟩
  | .jpV0 _ => ⟨0xF000, 0xB000⟩
  | .rnd _ _ => ⟨0xF000, 0xC000⟩
  | .drw _ _ _ => ⟨0xF000, 0xD000⟩
  | .skp _ => ⟨0xF0FF, 0xE09E⟩
  | .sknp _ => ⟨0xF0FF, 0xE0A1⟩
  | .ldFromDT _ => ⟨0xF0FF, 0xF007⟩
  | .ldKey _ => ⟨0xF0FF, 0xF00A⟩
  | .ldToDT _ => ⟨0xF0FF, 0xF015⟩
  | .ldToST _ => ⟨0xF0FF, 0xF018⟩
  | .addI _ => ⟨0xF0FF, 0xF01E⟩
  | .ldFont _ => ⟨0xF0FF, 0xF029⟩
  | .ldBcd _ => ⟨0xF0FF, 0xF033⟩
  | .store _ => ⟨0xF0FF, 0xF055⟩
  | .load _ => ⟨0xF0FF, 0xF065⟩

/-- One instruction of each of the 34 rows of R78, in the table's order. -/
def tableInstrs : List Instr :=
  [.cls, .ret, .jp 0, .call 0, .seImm 0 0, .sneImm 0 0, .seReg 0 0, .ldImm 0 0, .addImm 0 0,
   .ldReg 0 0, .orReg 0 0, .andReg 0 0, .xorReg 0 0, .addReg 0 0, .sub 0 0, .shr 0, .subn 0 0, .shl 0,
   .sneReg 0 0, .ldI 0, .jpV0 0, .rnd 0 0, .drw 0 0 0, .skp 0, .sknp 0,
   .ldFromDT 0, .ldKey 0, .ldToDT 0, .ldToST 0, .addI 0, .ldFont 0, .ldBcd 0, .store 0, .load 0]

/-- The 34 rows of R78 in the table's order. -/
def opcodeRows : List OpcodeRow := tableInstrs.map opcodeRow

/-- The bits of a word that its decoding examines: all but the ignored fields of R79. -/
def examinedBits : Instr → Word
  | .seReg _ _ | .sneReg _ _ => 0xFFF0
  | .shr _ | .shl _ => 0xFF0F
  | .cls | .ret | .jp _ | .call _ | .seImm _ _ | .sneImm _ _ | .ldImm _ _ | .addImm _ _ => 0xFFFF
  | .ldReg _ _ | .orReg _ _ | .andReg _ _ | .xorReg _ _ | .addReg _ _ | .sub _ _ | .subn _ _ => 0xFFFF
  | .ldI _ | .jpV0 _ | .rnd _ _ | .drw _ _ _ | .skp _ | .sknp _ => 0xFFFF
  | .ldFromDT _ | .ldKey _ | .ldToDT _ | .ldToST _ | .addI _ | .ldFont _ | .ldBcd _ | .store _ | .load _ => 0xFFFF

/-! ### Encode (R86) -/

/-- A register number in bits 11-8 (R71). -/
def placeX (x : RegIx) : Word := BitVec.ofNat 16 x.val <<< 8

/-- A register number in bits 7-4 (R71). -/
def placeY (y : RegIx) : Word := BitVec.ofNat 16 y.val <<< 4

/-- The operand bits of an instruction, ignored fields 0 (R71, R86). -/
def operandBits : Instr → Word
  | .cls | .ret => 0
  | .jp nnn | .call nnn | .ldI nnn | .jpV0 nnn => nnn.setWidth 16
  | .seImm x kk | .sneImm x kk | .ldImm x kk | .addImm x kk | .rnd x kk => placeX x ||| kk.setWidth 16
  | .seReg x y | .sneReg x y => placeX x ||| placeY y
  | .ldReg x y | .orReg x y | .andReg x y | .xorReg x y | .addReg x y | .sub x y | .subn x y => placeX x ||| placeY y
  | .drw x y n => placeX x ||| placeY y ||| BitVec.ofNat 16 n
  | .shr x | .shl x | .skp x | .sknp x => placeX x
  | .ldFromDT x | .ldKey x | .ldToDT x | .ldToST x | .addI x | .ldFont x | .ldBcd x | .store x | .load x => placeX x

/-- The word of an instruction: `match OR` its operand fields, ignored fields 0 (R86). -/
def encode (i : Instr) : Word := (opcodeRow i).pattern ||| operandBits i

/-- The bytes of an instruction as memory holds them, lower address first (R54, R86). -/
def encodeBytes (i : Instr) : List Byte := [highByte (encode i), lowByte (encode i)]

/-! ### The host's table words -/

/-- The first word of a table word `w` of `nbits` bits, the bits above `nbits` zero. -/
def tableWord (nbits w : Nat) : Word := BitVec.ofNat 16 (w % 2 ^ nbits)

/-- What the decoder reads from the instruction whose bits are `w`, laid out big-endian (R54). -/
def decodeTableWord (nbits w : Nat) : Option Instr :=
  match (decodeBytes [highByte (tableWord nbits w), lowByte (tableWord nbits w)]).1 with
  | .instr i => some i
  | .illegal _ => none

end Sys2Proof
end

