-- ==== Sys2Proof/Config.lean ====
section
/-! DEFINITION. What is fixed for one machine (00_scope.md R6) and the free inputs (10_state.md R34, R36;
60_exceptions.md R208, R210). A parameter the spec marks OPEN and every input of the host is an opaque
constant: no proof can see its value, so a claim holds whatever it is. -/

namespace Sys2Proof

/-- `MEM_SIZE` (R6, R50). -/
@[simp] abbrev Config.memSize : Nat := 4096

/-- The highest address of memory, 0xFFF (R50). -/
@[simp] abbrev Config.memTop : Nat := 0xFFF

/-- The highest address of the read-only region (R6 `RESERVED`, R52). -/
@[simp] abbrev Config.reservedTop : Nat := 0x1FF

/-- `PROG_BASE`: where a program is loaded and where execution starts (R6, R39, R233). -/
@[simp] abbrev Config.progBase : Nat := 0x200

/-- The longest image that fits between `PROG_BASE` and the top of memory (R233). -/
@[simp] abbrev Config.maxImage : Nat := 3584

/-- Bytes of one font glyph (R53, R175). -/
@[simp] abbrev Config.glyphBytes : Nat := 5

/-- The highest key code of the Input-source contract (R34, R210). -/
@[simp] abbrev Config.keyTop : Nat := 0xF

/-- Glyphs 0 to 7 of the default `FONT` table of R53. PRESUMED (assumption 1). -/
def Config.fontLow : List Byte :=
  [0xF0, 0x90, 0x90, 0x90, 0xF0] ++ [0x20, 0x60, 0x20, 0x20, 0x70] ++
  [0xF0, 0x10, 0xF0, 0x80, 0xF0] ++ [0xF0, 0x10, 0xF0, 0x10, 0xF0] ++
  [0x90, 0x90, 0xF0, 0x10, 0x10] ++ [0xF0, 0x80, 0xF0, 0x10, 0xF0] ++
  [0xF0, 0x80, 0xF0, 0x90, 0xF0] ++ [0xF0, 0x10, 0x20, 0x40, 0x40]

/-- Glyphs 8 to F of the default `FONT` table of R53. PRESUMED (assumption 1). -/
def Config.fontHigh : List Byte :=
  [0xF0, 0x90, 0xF0, 0x90, 0xF0] ++ [0xF0, 0x90, 0xF0, 0x10, 0xF0] ++
  [0xF0, 0x90, 0xF0, 0x90, 0x90] ++ [0xE0, 0x90, 0xE0, 0x90, 0xE0] ++
  [0xF0, 0x80, 0x80, 0x80, 0xF0] ++ [0xE0, 0x90, 0x90, 0x90, 0xE0] ++
  [0xF0, 0x80, 0xF0, 0x80, 0xF0] ++ [0xF0, 0x80, 0xF0, 0x80, 0x80]

/-- `FONT`: the 80 bytes at 0x000-0x04F, the default table of R53 (parameter with default, R6).
PRESUMED (assumption 1): the spec marks the bytes as general knowledge. -/
def Config.font : List Byte := Config.fontLow ++ Config.fontHigh

/-- `STACK_DEPTH` less one, `none` for an unbounded stack. OPEN in R6, so opaque (assumption 2). -/
opaque Config.stackDepthLessOne : Option Nat

/-- `STACK_DEPTH`: a positive number of entries, or `none` for unbounded (R6, R27). -/
def Config.stackDepth : Option Nat := Config.stackDepthLessOne.map (· + 1)

/-- `IPF` less one. OPEN in R6, so opaque (assumption 3). -/
opaque Config.ipfLessOne : Nat

/-- `IPF`, instructions per frame: a positive number, the same in every frame of a run (R6, R240). -/
def Config.ipf : Nat := Config.ipfLessOne + 1

/-- The byte on the `RND` input at input time `n`: a free value under no law (R36, assumption 4). -/
opaque Config.randomByte : Nat → Byte

/-- The levels on the `KEYS` input at input time `n`: a free value under no law (R34, assumption 5). -/
opaque Config.keyLevels : Nat → KeyLevels

/-- The key-down event, if any, that the host reports at input time `n` while the core waits for a key:
a free value under no law (R210, R219, assumption 6). `none`: the host only issues a `Frame`. -/
opaque Config.keyDownAt : Nat → Option RegIx

end Sys2Proof
end

