-- ==== Sys2Proof/Machine/State.lean ====
section
/-! DEFINITION. The state of the core (10_state.md R20 to R33, R39), the reasons a cycle can fault
(60_exceptions.md R201), the host moves that have no meaning (93_implementation_defined.md U14), and the
state after reset. -/

namespace Sys2Proof.Machine

/-- `MODE`, the run state (R31). -/
inductive Mode where
  /-- normal fetch and execution -/
  | running
  /-- blocked until a key-down arrives (`Fx0A`) -/
  | awaitingKey
  /-- stopped by a fault; only `Reset` leaves it (R204) -/
  | halted
  deriving DecidableEq, Repr

/-- The fault causes of R201. Every one is raised inside a `Cycle` and TAKEN there (R203): the cycle answers a
next state in mode `halted` that holds its code and its word, so no step answers `Outcome.fault`. -/
inductive Fault where
  /-- Code 1, raised by decode on a word that matches no row. Safe: the source itself makes it fatal. -/
  | illegalInstruction
  /-- Code 2, raised by `00EE` on an empty stack. Safe: the source itself makes it fatal. -/
  | stackUnderflow
  /-- Code 3, raised by `2nnn` on a full stack. Safe: the spec's D7 stops where the source's unbounded stack goes on. -/
  | stackOverflow
  /-- Code 4, raised by the fetch at `pc` above 0xFFE. Safe: the spec's D5 stops rather than invent a byte. -/
  | fetchAddressFault
  /-- Code 5, raised by `Dxyn`, `Fx33`, `Fx55`, `Fx65` on a data address above 0xFFF. Safe (D4). -/
  | dataAddressFault
  /-- Code 6, raised by `Fx33`, `Fx55` on a store to 0x000-0x1FF. Safe (D6). -/
  | reservedWriteFault
  deriving DecidableEq, Repr

/-- What the model gives no meaning. Safe in every case: it refuses rather than go on. -/
inductive Refusal where
  /-- An instruction without a meaning, by its mnemonic; `exec` holds no such arm. Safe. -/
  | notModelled (mnemonic : String)
  /-- The host's `KeyDown(k)` with `k` above 15: R210 gives it no meaning. Safe. -/
  | keyCodeOutOfRange
  /-- A `Load`, `Frame` or `KeyDown` of the host inside a `Frame`: R209 rules it out. Safe. -/
  | hostMoveInsideFrame
  /-- A `Load` that does not come directly after `Reset`: R233 gives it no meaning. Safe. -/
  | loadNotAfterReset
  /-- A `Load` of more than 3584 bytes: R233 gives it no meaning. Safe. -/
  | imageTooLong
  deriving DecidableEq, Repr

/-- Memory as (address, byte) pairs in one canonical form: addresses strictly rising, and no entry equal to
what an unlisted address reads as, the byte that `Reset` leaves there (R39, R50). -/
abbrev Memory := List Host.Cell

/-- The whole state of the core (R20), and three fields of the model's own (`slot`, `now`, `loadable`). -/
structure State where
  /-- `V[0..15]`, the general registers; `V[15]` is `VF` (R21, R22) -/
  v : Vector Byte 16
  /-- `I`, the index register (R23) -/
  idx : Word
  /-- `pc`, the program counter (R24) -/
  pc : Word
  /-- `stack`, the return addresses, the LAST entry of R27's sequence first; `SP` is its length -/
  stack : List Word
  /-- `DT`, the delay timer (R30) -/
  dt : Byte
  /-- `ST`, the sound timer (R30) -/
  st : Byte
  /-- `MODE` (R31) -/
  mode : Mode
  /-- `KREG`, the register a key wait targets (R31) -/
  kreg : RegIx
  /-- `FCAUSE`, the cause code of the fault that halted the machine (R32) -/
  fcause : BitVec 3
  /-- `FINFO`, the offending word or the `pc` of the failed fetch (R32) -/
  finfo : Word
  /-- `mem[0x000..0xFFF]` (R50) -/
  mem : Memory
  /-- `DISP[0..31][0..63]`: 32 rows; bit `px` of row `py` is `DISP[py][px]` (R33) -/
  disp : Vector PixelRow 32
  /-- the model's own: how many instructions of the current `Frame`'s batch have run (R211's `count`) -/
  slot : Nat
  /-- the model's own: the input time, at which `RND`, `KEYS` and key-downs are sampled (R34, R36) -/
  now : Nat
  /-- the model's own: `Load` is still allowed, no `Cycle` and no move of the host having come since `Reset` (R233) -/
  loadable : Bool
  deriving DecidableEq, Repr

/-- The state right after `Reset` (R39, R230): the font and zeros are what unlisted memory reads as. The three
fields of the model's own are DESIGN CHOICE (assumption 7). -/
def State.reset : State where
  v := Vector.replicate 16 0
  idx := 0
  pc := 0x200
  stack := []
  dt := 0
  st := 0
  mode := .running
  kreg := 0
  fcause := 0
  finfo := 0
  mem := []
  disp := Vector.replicate 32 0
  slot := 0
  now := 0
  loadable := true

end Sys2Proof.Machine
end

