-- ==== Sys2Proof/Machine/Ops.lean ====
section
/-! DEFINITION. The named operations over memory, registers, stack and display (the primitives of
00_scope.md R8), and fault entry (60_exceptions.md R203). -/

namespace Sys2Proof.Machine

/-! ### Memory (20_memory.md) -/

/-- What an address that memory does not list reads as: the byte `Reset` leaves there, the font at
0x000-0x04F and 0 elsewhere (R39, R51, R53). -/
def resetByte (a : Nat) : Byte := Config.font.getD a 0

/-- The byte at an address. -/
def Memory.byteAt : Memory → Nat → Byte
  | [], a => resetByte a
  | (b, v) :: rest, a => if a = b then v else Memory.byteAt rest a

/-- Store one byte, keeping the canonical form. -/
def Memory.put : Memory → Nat → Byte → Memory
  | [], a, v => if v = resetByte a then [] else [(a, v)]
  | (b, u) :: rest, a, v =>
    if a < b then (if v = resetByte a then (b, u) :: rest else (a, v) :: (b, u) :: rest)
    else if a = b then (if v = resetByte a then rest else (a, v) :: rest)
    else (b, u) :: Memory.put rest a v

/-- Store consecutive bytes at rising addresses. -/
def Memory.putAll : Memory → Nat → List Byte → Memory
  | m, _, [] => m
  | m, a, b :: bs => Memory.putAll (Memory.put m a b) (a + 1) bs

/-- The canonical form: addresses strictly rising, inside 0x000-0xFFF, and no entry that an unlisted address
would read as anyway. -/
abbrev Memory.wf (m : Memory) : Prop :=
  m.Pairwise (fun c d => c.1 < d.1) ∧ ∀ c ∈ m, c.1 ≤ Config.memTop ∧ c.2 ≠ resetByte c.1

/-- The byte at an address in a state's memory. -/
def State.byteAt (s : State) (a : Nat) : Byte := Memory.byteAt s.mem a

/-- The check of a data read: an address above 0xFFF faults (R56). -/
def readFault (a : Nat) : Option Fault :=
  if a > Config.memTop then some .dataAddressFault else none

/-- The check of a data write: an address above 0xFFF faults, one in 0x000-0x1FF faults (R58, R179). -/
def writeFault (a : Nat) : Option Fault :=
  if a > Config.memTop then some .dataAddressFault
  else if a ≤ Config.reservedTop then some .reservedWriteFault
  else none

/-- The checks of `n` consecutive accesses from `base`, made in ascending offset before the first access; the
first failing one decides the fault (R58, R179). Addresses are natural numbers with no wrap (R59). -/
def firstFault (check : Nat → Option Fault) (base n : Nat) : Option Fault :=
  (List.range n).findSome? (fun k => check (base + k))

/-- `MemWrite` of consecutive bytes whose addresses were checked: `mem[base + k] <- bs[k]`, ascending (R58). -/
def putBytes (base : Nat) (bs : List Byte) (s : State) : State :=
  { s with mem := Memory.putAll s.mem base bs }

/-- The fetch `MemRead(pc, 2)`: big-endian, none (`FetchAddressFault`) when `pc > 0xFFE` (R57, R74). -/
def fetch (s : State) : Option Word :=
  if s.pc.toNat > 0xFFE then none
  else some (wordOfBytes (s.byteAt s.pc.toNat) (s.byteAt (s.pc.toNat + 1)))

/-! ### Registers -/

/-- Read `V[x]` (R8, R21). -/
def State.reg (s : State) (x : RegIx) : Byte := s.v[x.val]'x.isLt

/-- `V[x] <- b` (R8, R21). -/
def setV (x : RegIx) (b : Byte) (s : State) : State :=
  { s with v := s.v.set x.val b x.isLt }

/-- `I <- a` (R23). -/
def setI (a : Word) (s : State) : State := { s with idx := a }

/-- `pc <- t` (R24). -/
def setPc (t : Word) (s : State) : State := { s with pc := t }

/-- The generic advance `pc <- (pc + 2) mod 65536`, before the instruction's effects (R24, R26, R76). -/
def advance (s : State) : State := setPc (s.pc + 2) s

/-- Skip the next instruction if the condition holds: a further `pc <- (pc + 2) mod 65536` (R24, R26). -/
def skipIf (c : Bool) (s : State) : State := setPc (if c then s.pc + 2 else s.pc) s

/-- `DT <- b` (R30). -/
def setDT (b : Byte) (s : State) : State := { s with dt := b }

/-- `ST <- b` (R30). -/
def setST (b : Byte) (s : State) : State := { s with st := b }

/-- Enter the key wait for register `x`: `KREG <- x`, `MODE <- AwaitingKey` (R31, R171). -/
def awaitKey (x : RegIx) (s : State) : State := { s with kreg := x, mode := .awaitingKey }

/-! ### Call stack (R27 to R29) -/

/-- Is the stack full, `SP = STACK_DEPTH`? An empty stack never is, the depth being positive (R6, R28). -/
def stackFull (s : State) : Bool :=
  match s.stack with
  | [] => false
  | _ :: rest => Config.stackDepthLessOne == some rest.length

/-- `Push(v)` on a stack that is not full (R28). -/
def push (v : Word) (s : State) : State := { s with stack := v :: s.stack }

/-- `Pop()` of a stack whose last entry was `t`: drop it and go to it (R29, R101). -/
def popTo (t : Word) (rest : List Word) (s : State) : State := { s with stack := rest, pc := t }

/-! ### Display (R33) -/

/-- `DISP[py][px]`. -/
def State.pixel (s : State) (px : PixelX) (py : PixelY) : Bool := (s.disp[py.val]'py.isLt).getLsbD px.val

/-- The state part of `DispToggle(px, py)`: `DISP[py][px] <- 1 - DISP[py][px]`. -/
def dispToggle (px : PixelX) (py : PixelY) (s : State) : State :=
  { s with disp := s.disp.set py.val ((s.disp[py.val]'py.isLt) ^^^ BitVec.twoPow 64 px.val) py.isLt }

/-- `DispClear()`: every pixel to 0. -/
def dispClear (s : State) : State := { s with disp := Vector.replicate 32 0 }

/-! ### Fault entry (R201, R203) -/

/-- The cause code of a fault (R201). -/
def faultCode : Fault → BitVec 3
  | .illegalInstruction => 1
  | .stackUnderflow => 2
  | .stackOverflow => 3
  | .fetchAddressFault => 4
  | .dataAddressFault => 5
  | .reservedWriteFault => 6

/-- Fault entry (R203), applied to the state in which the `Cycle` began: that state whole, the pc advance
undone, with `MODE`, `FCAUSE` and `FINFO` written. -/
def raise (f : Fault) (info : Word) (s : State) : State :=
  { s with mode := .halted, fcause := faultCode f, finfo := info }

/-- The end of an instruction that checks before it acts: the fault of the first failing check, with the
instruction's word and the state `s` in which the `Cycle` began, or else the state `t` of its effect. -/
def settle (f : Option Fault) (i : Instr) (s t : State) : Host.Outcome State Fault Refusal :=
  match f with
  | some f => .next (raise f (encode i) s)
  | none => .next t

/-- Apply a change to the state a step answers. -/
def thenApply (o : Host.Outcome State Fault Refusal) (f : State → State) : Host.Outcome State Fault Refusal :=
  match o with
  | .next t => .next (f t)
  | .fault r => .fault r
  | .refused r => .refused r

/-! ### Outputs -/

/-- The `TONE` output: 1 while the machine is not halted and `ST` is not 0 (R35). -/
def tone (s : State) : Bool := decide (s.mode ≠ .halted) && decide (s.st ≠ 0)

end Sys2Proof.Machine
end

