-- ==== Sys2Proof/Machine/Operands.lean ====
section
/-! DEFINITION. The operand forms: latched registers (00_scope.md R9), immediates (30_encoding.md R73), the one
addressing mode (20_memory.md R59), register blocks, digits, key levels and sprite coordinates. -/

namespace Sys2Proof.Machine

/-- A 12-bit immediate zero-extended to 16 bits (R73). -/
def immAddr (nnn : Addr12) : Word := nnn.setWidth 16

/-- The base of the one addressing mode: `I` as a natural number, to which the offset is added with no
wrap (R59). -/
def base (s : State) : Nat := s.idx.toNat

/-- The target of `Bnnn`: `(V[0] + nnn) mod 65536` (R142). -/
def indexedTarget (nnn : Addr12) (s : State) : Word := (s.reg 0).setWidth 16 + immAddr nnn

/-- The latched values of `V[0]` to `V[x]` (R177). -/
def regBlock (x : RegIx) (s : State) : List Byte := s.v.toList.take (x.val + 1)

/-- The bytes `mem[base + k]` for `k` in `0 .. n-1` (R178). -/
def memBlock (a n : Nat) (s : State) : List Byte := (List.range n).map (fun k => s.byteAt (a + k))

/-- Write `V[k] <- bs[k]` for every `k` below the number of bytes, other registers unchanged (R178). -/
def setBlock (bs : List Byte) (s : State) : State :=
  { s with v := Vector.ofFn (fun k : RegIx => bs.getD k.val (s.reg k)) }

/-- Hundreds, tens and units of a byte, one digit a byte (R176). -/
def bcdDigits (b : Byte) : List Byte := [b / 100, b / 10 % 10, b % 10]

/-- The address of the glyph of a byte: `5 * b`, not masked to the low nibble (R175). -/
def glyphAddr (b : Byte) : Word := BitVec.ofNat 16 (b.toNat * Config.glyphBytes)

/-- `I + V[x]` modulo 65536 (R174). -/
def indexPlus (a : Word) (b : Byte) : Word := a + b.setWidth 16

/-- Is the key named by a byte pressed, at given levels? A code above 0xF names no key (R160, R162). -/
def keyPressed (keys : KeyLevels) (b : Byte) : Bool := decide (b.toNat ≤ Config.keyTop) && keys.getLsbD b.toNat

/-- `KeyPressed` of the key named by a byte, the levels sampled now (R34). -/
def keyDownNow (b : Byte) (s : State) : Bool := keyPressed (Config.keyLevels s.now) b

/-- `Random()`: the byte on the `RND` input now (R36). -/
def randomNow (s : State) : Byte := Config.randomByte s.now

/-- The pixel column of sprite column `c` drawn at `xv`: toroidal wrap (R151). -/
def wrapX (xv : Byte) (c : Nat) : PixelX := ⟨(xv.toNat + c) % 64, Nat.mod_lt _ (by decide)⟩

/-- The pixel row of sprite row `r` drawn at `yv`: toroidal wrap (R151). -/
def wrapY (yv : Byte) (r : Nat) : PixelY := ⟨(yv.toNat + r) % 32, Nat.mod_lt _ (by decide)⟩

end Sys2Proof.Machine
end

