-- ==== Sys2Proof/Machine/Flags.lean ====
section
/-! DEFINITION. The values written to `VF` as a flag (10_state.md R22) and the order of the flag and result
writes (41_alu.md R120). -/

namespace Sys2Proof.Machine

/-- A flag of 1 or 0. -/
def flagOf (c : Bool) : Byte := if c then 1 else 0

/-- `8xy4`: carry out, 1 iff the unmasked sum exceeds 255 (R125). -/
def carryFlag (a b : Byte) : Byte := flagOf (decide (a.toNat + b.toNat > 255))

/-- `8xy5`, `8xy7`: 1 iff the minuend is strictly greater than the subtrahend (R126, R128). -/
def greaterFlag (a b : Byte) : Byte := flagOf (decide (a.toNat > b.toNat))

/-- `8xy6`: the bit shifted out on the right, 0 or 1 (R127). -/
def lowBitFlag (a : Byte) : Byte := a &&& 0x01

/-- `8xyE`: the bit shifted out on the left, stored raw, 0x00 or 0x80 (R129). -/
def highBitFlag (a : Byte) : Byte := a &&& 0x80

/-- A flag-defining operation writes the flag to `VF` first and the result to `V[x]` second, so with `x = 15`
the result is what `VF` holds (R120, R131). -/
def setFlagThenResult (x : RegIx) (flag result : Byte) (s : State) : State := setV x result (setV vf flag s)

end Sys2Proof.Machine
end

