-- ==== Sys2Proof/Machine/Alu.lean ====
section
/-! DEFINITION. Family 8, the register-register ALU (41_alu.md). Operands are read from the state in which the
`Cycle` began (00_scope.md R9); the flag is written before the result (R120). -/

namespace Sys2Proof.Machine

/-- `8xy0` LD Vx, Vy (R121). -/
def execLdReg (x y : RegIx) (s : State) : Host.Outcome State Fault Refusal :=
  .next (setV x (s.reg y) (advance s))

/-- `8xy1` OR Vx, Vy: `VF` keeps its value (R122). -/
def execOrReg (x y : RegIx) (s : State) : Host.Outcome State Fault Refusal :=
  .next (setV x (s.reg x ||| s.reg y) (advance s))

/-- `8xy2` AND Vx, Vy: `VF` keeps its value (R123). -/
def execAndReg (x y : RegIx) (s : State) : Host.Outcome State Fault Refusal :=
  .next (setV x (s.reg x &&& s.reg y) (advance s))

/-- `8xy3` XOR Vx, Vy: `VF` keeps its value (R124). -/
def execXorReg (x y : RegIx) (s : State) : Host.Outcome State Fault Refusal :=
  .next (setV x (s.reg x ^^^ s.reg y) (advance s))

/-- `8xy4` ADD Vx, Vy (R125). -/
def execAddReg (x y : RegIx) (s : State) : Host.Outcome State Fault Refusal :=
  .next (setFlagThenResult x (carryFlag (s.reg x) (s.reg y)) (s.reg x + s.reg y) (advance s))

/-- `8xy5` SUB Vx, Vy (R126). -/
def execSub (x y : RegIx) (s : State) : Host.Outcome State Fault Refusal :=
  .next (setFlagThenResult x (greaterFlag (s.reg x) (s.reg y)) (s.reg x - s.reg y) (advance s))

/-- `8xy6` SHR Vx: `y` is ignored (R127). -/
def execShr (x : RegIx) (s : State) : Host.Outcome State Fault Refusal :=
  .next (setFlagThenResult x (lowBitFlag (s.reg x)) (s.reg x >>> 1) (advance s))

/-- `8xy7` SUBN Vx, Vy (R128). -/
def execSubn (x y : RegIx) (s : State) : Host.Outcome State Fault Refusal :=
  .next (setFlagThenResult x (greaterFlag (s.reg y) (s.reg x)) (s.reg y - s.reg x) (advance s))

/-- `8xyE` SHL Vx: `y` is ignored, the flag is stored raw (R129). -/
def execShl (x : RegIx) (s : State) : Host.Outcome State Fault Refusal :=
  .next (setFlagThenResult x (highBitFlag (s.reg x)) (s.reg x <<< 1) (advance s))

end Sys2Proof.Machine
end

