-- ==== Sys2Proof/Machine/Control.lean ====
section
/-! DEFINITION. Families 0 to 7 (40_control_and_immediate.md). A meaning takes the state in which the `Cycle`
began; it makes the generic advance itself, first (30_encoding.md R76), and a fault enters from the state
before it (R203). -/

namespace Sys2Proof.Machine

/-- `00E0` CLS (R100). -/
def execCls (s : State) : Host.Outcome State Fault Refusal := .next (dispClear (advance s))

/-- `00EE` RET (R101). -/
def execRet (s : State) : Host.Outcome State Fault Refusal :=
  match s.stack with
  | [] => .next (raise .stackUnderflow (encode .ret) s)
  | t :: rest => .next (popTo t rest (advance s))

/-- `1nnn` JP nnn (R102). -/
def execJp (nnn : Addr12) (s : State) : Host.Outcome State Fault Refusal :=
  .next (setPc (immAddr nnn) (advance s))

/-- `2nnn` CALL nnn: the advanced `pc` is pushed (R103, R243). -/
def execCall (nnn : Addr12) (s : State) : Host.Outcome State Fault Refusal :=
  match stackFull s with
  | true => .next (raise .stackOverflow (encode (.call nnn)) s)
  | false => .next (setPc (immAddr nnn) (push (advance s).pc (advance s)))

/-- `3xkk` SE Vx, kk (R104). -/
def execSeImm (x : RegIx) (kk : Byte) (s : State) : Host.Outcome State Fault Refusal :=
  .next (skipIf (decide (s.reg x = kk)) (advance s))

/-- `4xkk` SNE Vx, kk (R105). -/
def execSneImm (x : RegIx) (kk : Byte) (s : State) : Host.Outcome State Fault Refusal :=
  .next (skipIf (decide (s.reg x ≠ kk)) (advance s))

/-- `5xy_` SE Vx, Vy (R106). -/
def execSeReg (x y : RegIx) (s : State) : Host.Outcome State Fault Refusal :=
  .next (skipIf (decide (s.reg x = s.reg y)) (advance s))

/-- `6xkk` LD Vx, kk (R107). -/
def execLdImm (x : RegIx) (kk : Byte) (s : State) : Host.Outcome State Fault Refusal :=
  .next (setV x kk (advance s))

/-- `7xkk` ADD Vx, kk: no flag (R108). -/
def execAddImm (x : RegIx) (kk : Byte) (s : State) : Host.Outcome State Fault Refusal :=
  .next (setV x (s.reg x + kk) (advance s))

end Sys2Proof.Machine
end

