-- ==== Sys2Proof/Machine/Draw.lean ====
section
/-! DEFINITION. Family D, draw sprite (43_draw.md), written as R150's pseudocode. -/

namespace Sys2Proof.Machine

/-- Column `c` of a sprite row `b` at (`xv`, `yv`) and row `r`: where bit `7 - c` is 1, toggle the pixel, and
`VF <- 1` if it was on (R150). -/
def drawPixel (xv yv b : Byte) (r : Nat) (s : State) (c : Nat) : State :=
  if b.getLsbD (7 - c) then
    if s.pixel (wrapX xv c) (wrapY yv r) then setV vf 1 (dispToggle (wrapX xv c) (wrapY yv r) s)
    else dispToggle (wrapX xv c) (wrapY yv r) s
  else s

/-- Row `r` of a sprite whose first row is at `a`: eight columns from the left (R150). -/
def drawRow (xv yv : Byte) (a : Nat) (s : State) (r : Nat) : State :=
  (List.range 8).foldl (drawPixel xv yv (s.byteAt (a + r)) r) s

/-- `VF <- 0`, then the `n` rows from the top (R150). -/
def drawSprite (xv yv : Byte) (a n : Nat) (s : State) : State :=
  (List.range n).foldl (drawRow xv yv a) (setV vf 0 s)

/-- `Dxyn` DRW Vx, Vy, n: coordinates and base latched, every row address checked before any effect
(R150, R153, R154). -/
def execDrw (x y : RegIx) (n : Nat) (s : State) : Host.Outcome State Fault Refusal :=
  settle (firstFault readFault (base s) n) (.drw x y n) s
    (drawSprite (s.reg x) (s.reg y) (base s) n (advance s))

end Sys2Proof.Machine
end

