-- ==== Sys2Proof/Machine/Index.lean ====
section
/-! DEFINITION. Families 9 to C (42_compare_index_jump_random.md). -/

namespace Sys2Proof.Machine

/-- `9xy_` SNE Vx, Vy (R140). -/
def execSneReg (x y : RegIx) (s : State) : Host.Outcome State Fault Refusal :=
  .next (skipIf (decide (s.reg x ≠ s.reg y)) (advance s))

/-- `Annn` LD I, nnn (R141). -/
def execLdI (nnn : Addr12) (s : State) : Host.Outcome State Fault Refusal :=
  .next (setI (immAddr nnn) (advance s))

/-- `Bnnn` JP V0, nnn: not reduced to 12 bits (R142). -/
def execJpV0 (nnn : Addr12) (s : State) : Host.Outcome State Fault Refusal :=
  .next (setPc (indexedTarget nnn s) (advance s))

/-- `Cxkk` RND Vx, kk: the random byte is a free value (R143, R36). -/
def execRnd (x : RegIx) (kk : Byte) (s : State) : Host.Outcome State Fault Refusal :=
  .next (setV x (randomNow s &&& kk) (advance s))

end Sys2Proof.Machine
end

