-- ==== Sys2Proof/Machine/Keys.lean ====
section
/-! DEFINITION. Family E, skip on key state (44_keys.md). The key levels are a free value (10_state.md R34). -/

namespace Sys2Proof.Machine

/-- `Ex9E` SKP Vx (R160). -/
def execSkp (x : RegIx) (s : State) : Host.Outcome State Fault Refusal :=
  .next (skipIf (keyDownNow (s.reg x) s) (advance s))

/-- `ExA1` SKNP Vx (R161). -/
def execSknp (x : RegIx) (s : State) : Host.Outcome State Fault Refusal :=
  .next (skipIf (!keyDownNow (s.reg x) s) (advance s))

end Sys2Proof.Machine
end

