-- ==== Sys2Proof/Machine/Misc.lean ====
section
/-! DEFINITION. Family F: timers, key wait, index arithmetic, font address, BCD, block store and load
(45_timer_index_memory.md). -/

namespace Sys2Proof.Machine

/-- `Fx07` LD Vx, DT (R170). -/
def execLdFromDT (x : RegIx) (s : State) : Host.Outcome State Fault Refusal :=
  .next (setV x s.dt (advance s))

/-- `Fx0A` LD Vx, K: enters the wait and completes; the key arrives later by `KeyDown` (R171, R210). -/
def execLdKey (x : RegIx) (s : State) : Host.Outcome State Fault Refusal :=
  .next (awaitKey x (advance s))

/-- `Fx15` LD DT, Vx (R172). -/
def execLdToDT (x : RegIx) (s : State) : Host.Outcome State Fault Refusal :=
  .next (setDT (s.reg x) (advance s))

/-- `Fx18` LD ST, Vx (R173). -/
def execLdToST (x : RegIx) (s : State) : Host.Outcome State Fault Refusal :=
  .next (setST (s.reg x) (advance s))

/-- `Fx1E` ADD I, Vx: no flag (R174). -/
def execAddI (x : RegIx) (s : State) : Host.Outcome State Fault Refusal :=
  .next (setI (indexPlus s.idx (s.reg x)) (advance s))

/-- `Fx29` LD F, Vx (R175). -/
def execLdFont (x : RegIx) (s : State) : Host.Outcome State Fault Refusal :=
  .next (setI (glyphAddr (s.reg x)) (advance s))

/-- `Fx33` LD B, Vx: three writes, checked first (R176, R179). -/
def execLdBcd (x : RegIx) (s : State) : Host.Outcome State Fault Refusal :=
  settle (firstFault writeFault (base s) 3) (.ldBcd x) s
    (putBytes (base s) (bcdDigits (s.reg x)) (advance s))

/-- `Fx55` LD [I], Vx: `x + 1` writes, checked first; `I` unchanged (R177, R179). -/
def execStore (x : RegIx) (s : State) : Host.Outcome State Fault Refusal :=
  settle (firstFault writeFault (base s) (x.val + 1)) (.store x) s
    (putBytes (base s) (regBlock x s) (advance s))

/-- `Fx65` LD Vx, [I]: `x + 1` reads, checked first; `I` unchanged (R178, R179). -/
def execLoad (x : RegIx) (s : State) : Host.Outcome State Fault Refusal :=
  settle (firstFault readFault (base s) (x.val + 1)) (.load x) s
    (setBlock (memBlock (base s) (x.val + 1) s) (advance s))

end Sys2Proof.Machine
end

