-- ==== Sys2Proof/Machine/Events.lean ====
section
/-! DEFINITION. The events of the machine (60_exceptions.md R208 to R212; 70_reset_and_hazards.md R230, R233):
`Cycle`, `Tick`, `Frame`, `KeyDown`, `Load`, `Reset`, and the frame bookkeeping with which `step` takes a
`Frame` one instruction at a time. -/

namespace Sys2Proof.Machine

/-! ### The window for Load (R233) -/

/-- `Load` is no longer allowed: something other than `Reset` has come since `Reset`. The model's own field. -/
def closeLoad (s : State) : State := { s with loadable := false }

/-! ### Cycle (R76) -/

/-- After a `Cycle` the inputs may change and `Load` is no longer allowed; both are the model's own fields. -/
def afterCycle (s : State) : State := { closeLoad s with now := s.now + 1 }

/-- Execute what a fetched word decodes to, or raise `IllegalInstruction` (R76, R80). -/
def decodeAndExec (w : Word) (s : State) : Host.Outcome State Fault Refusal :=
  match decodeWord w with
  | .illegal _ => .next (raise .illegalInstruction w s)
  | .instr i => exec i s

/-- Fetch, decode, execute one instruction (R76). The faults of the fetch and of the decode enter here, those of
the instruction in its meaning; the order is the priority of R207. -/
def fetchAndExec (s : State) : Host.Outcome State Fault Refusal :=
  match fetch s with
  | none => .next (raise .fetchAddressFault s.pc s)
  | some w => decodeAndExec w s

/-- The event `Cycle`, for a running machine. -/
def cycle (s : State) : Host.Outcome State Fault Refusal := thenApply (fetchAndExec s) afterCycle

/-! ### Tick (R212) -/

/-- One decrement of a timer, floor at 0 (R212). -/
def countDown (b : Byte) : Byte := if b = 0 then 0 else b - 1

/-- The event `Tick`: both timers (R212). -/
def tick (s : State) : State := { s with dt := countDown s.dt, st := countDown s.st }

/-! ### Frame (R211) -/

/-- The loop of `Frame`: at most `n` more `Cycle`s, while the machine is running (R211). -/
def batch : Nat → State → Host.Outcome State Fault Refusal
  | 0, s => .next s
  | n + 1, s =>
    match s.mode with
    | .running =>
      match cycle s with
      | .next t => batch n t
      | .fault r => .fault r
      | .refused r => .refused r
    | .awaitingKey => .next s
    | .halted => .next s

/-- The end of a `Frame`: one `Tick` if the machine is running (R211). -/
def tickIfRunning (s : State) : State :=
  match s.mode with
  | .running => tick s
  | .awaitingKey => s
  | .halted => s

/-- The event `Frame`: up to `IPF` cycles, then at most one `Tick`; nothing while halted (R211). -/
def frame (s : State) : Host.Outcome State Fault Refusal :=
  match s.mode with
  | .halted => .next s
  | .running => thenApply (batch Config.ipf s) tickIfRunning
  | .awaitingKey => thenApply (batch Config.ipf s) tickIfRunning

/-! ### KeyDown (R210) -/

/-- Deliver key `k` to the waiting register and run on (R210). -/
def deliverKey (k : RegIx) (s : State) : State :=
  { setV s.kreg (BitVec.ofNat 8 k.val) s with mode := .running }

/-- The event `KeyDown(k)`: ends a key wait, ignored in every other mode; no meaning for `k > 15` (R210). -/
def keyDown (k : Nat) (s : State) : Host.Outcome State Fault Refusal :=
  if h : k < 16 then
    match s.mode with
    | .awaitingKey => .next (deliverKey ⟨k, h⟩ s)
    | .running => .next s
    | .halted => .next s
  else .refused .keyCodeOutOfRange

/-! ### Reset and Load (R230, R233) -/

/-- The event `Reset`, from any state: every piece of state to its value of R39. The input time goes on, so that
no input repeats. -/
def hostReset (s : State) : State := { State.reset with now := s.now }

/-- The event `Load(image)`: only directly after `Reset`, at most 3584 bytes, to memory from 0x200 (R233). -/
def loadImage (image : List Byte) (s : State) : Host.Outcome State Fault Refusal :=
  if s.loadable ∧ s.mode = .running then
    if image.length ≤ Config.maxImage then
      .next (closeLoad (putBytes Config.progBase image s))
    else .refused .imageTooLong
  else .refused .loadNotAfterReset

/-! ### The host's moves (R208, R240) -/

/-- What the host may do to the core. -/
inductive HostMove where
  | reset
  | load (image : List Byte)
  | frame
  | keyDown (k : Nat)
  deriving DecidableEq, Repr

/-- A move of the host. `Reset` may come at any time; the others only between `Frame`s (R209, R240), and after any
of them, an ignored one too, no `Load` comes directly after `Reset` any more (R208, R233). -/
def hostMove (e : HostMove) (s : State) : Host.Outcome State Fault Refusal :=
  match e with
  | .reset => .next (hostReset s)
  | .load image => if s.slot = 0 then loadImage image s else .refused .hostMoveInsideFrame
  | .frame => if s.slot = 0 then thenApply (frame s) closeLoad else .refused .hostMoveInsideFrame
  | .keyDown k => if s.slot = 0 then thenApply (keyDown k s) closeLoad else .refused .hostMoveInsideFrame

/-- A schedule of host moves, one after another; it stops at the first that has no meaning (R209). -/
def hostRun : List HostMove → State → Host.Outcome State Fault Refusal
  | [], s => .next s
  | e :: es, s =>
    match hostMove e s with
    | .next t => hostRun es t
    | .fault r => .fault r
    | .refused r => .refused r

/-! ### One step: a frame taken instruction by instruction -/

/-- Is the instruction just executed the last of its `Frame`'s batch of `IPF`? (R211) -/
def lastSlot (s : State) : Bool := decide (Config.ipf ≤ s.slot + 1)

/-- The bookkeeping after an instruction of a batch (R211): a running machine goes to the next slot, or, after
the last one, ticks its timers and begins a new `Frame`; a machine that waits or has halted ends the `Frame`
at once, without a `Tick`. -/
def closeSlot (s : State) : State :=
  match s.mode with
  | .running =>
    { s with
      dt := if lastSlot s then countDown s.dt else s.dt
      st := if lastSlot s then countDown s.st else s.st
      slot := if lastSlot s then 0 else s.slot + 1 }
  | .awaitingKey => { s with slot := 0 }
  | .halted => { s with slot := 0 }

/-- A step of a running machine: one `Cycle`, and the frame bookkeeping. -/
def runningStep (s : State) : Host.Outcome State Fault Refusal := thenApply (cycle s) closeSlot

/-- A step of a waiting machine: the host reports a key-down (R210), or only issues a `Frame`, in which nothing
executes and nothing ticks (R211). Which one is a free value (R219). -/
def awaitStep (s : State) : State :=
  match Config.keyDownAt s.now with
  | some k => { closeLoad (deliverKey k s) with now := s.now + 1 }
  | none => { closeLoad s with now := s.now + 1 }

/-- A step of a halted machine: every event but `Reset` is ignored (R204, R208). -/
def haltedStep (s : State) : State := s

/-- Store an instruction word, in memory's byte order, at an address (R54). -/
def placeWord (a : Nat) (w : Word) (s : State) : State := putBytes a [highByte w, lowByte w] s

/-- An address at which the machine can fetch: `pc` where a fetch there is possible, else `PROG_BASE`. -/
def fetchablePc (s : State) : Word := if s.pc.toNat > 0xFFE then 0x200 else s.pc

/-- The machine running at a fetchable `pc` with a word stored there. -/
def withWord (w : Word) (s : State) : State :=
  { placeWord (fetchablePc s).toNat w s with pc := fetchablePc s, mode := .running }

end Sys2Proof.Machine
end

