-- ==== Sys2Proof/Machine/Step.lean ====
section
/-! DEFINITION. One step of the machine (60_exceptions.md R208, R211), and a state in which a given word is what
the next step runs. -/

namespace Sys2Proof.Machine

/-- One step: a running machine executes one instruction, a waiting one takes what the host does, a halted one
stays as it is. -/
def step (s : State) : Host.Outcome State Fault Refusal :=
  match s.mode with
  | .running => runningStep s
  | .awaitingKey => .next (awaitStep s)
  | .halted => .next (haltedStep s)

/-- `s` with the instruction whose bits are `w` stored where `step` fetches: at `pc`, the machine running. -/
def State.withFetchWord (s : State) (nbits w : Nat) : State := withWord (tableWord nbits w) s

end Sys2Proof.Machine
end

