-- ==== Sys2Proof/Safety.lean ====
section
/-! DEFINITION. What counts as a safe run, in the terms claims use (70_reset_and_hazards.md R236, R238; 10_state.md
R41). -/

namespace Sys2Proof.Machine

/-- The premise `NoFault` of R236. -/
abbrev NoFault (s : State) : Prop := s.mode ≠ .halted

/-- The premise `Booted(image)` of R236: `Load(image)` applied to the `Reset` state. -/
def Booted (image : List Byte) (s : State) : Prop := hostRun [.reset, .load image] State.reset = .next s

/-- The premise `HostObeys` of R236, for a schedule: `Reset`, one `Load` of at most 3584 bytes, then `Frame`s and
`KeyDown`s with codes up to 15. -/
def HostObeys : List HostMove → Prop
  | .reset :: .load image :: rest =>
    image.length ≤ Config.maxImage ∧ ∀ e ∈ rest, e = .frame ∨ ∃ k, k ≤ Config.keyTop ∧ e = .keyDown k
  | _ => False

/-- A program has finished when the machine runs and the instruction at `pc` is a jump to itself (R238). -/
def Finished (s : State) : Prop :=
  s.mode = .running ∧ ∃ w nnn, fetch s = some w ∧ decodeWord w = .instr (.jp nnn) ∧ immAddr nnn = s.pc

/-- The read-only region holds what `Reset` put there (R41 b, R52, R58). -/
def ReservedIntact (s : State) : Prop := ∀ a, a ≤ Config.reservedTop → s.byteAt a = resetByte a

/-- The stack never holds more than `STACK_DEPTH` entries (R41 a); every depth if it is unbounded. -/
def StackBounded (s : State) : Prop := ∀ d, Config.stackDepth = some d → s.stack.length ≤ d

/-- `MODE = Halted` exactly when `FCAUSE` is not 0 (R41 c, R201). -/
def HaltedHasCause (s : State) : Prop := s.mode = .halted ↔ s.fcause ≠ 0

/-- The frame bookkeeping is sound: a slot of the batch, and none outside a running frame (R211). -/
def SlotSound (s : State) : Prop := s.slot < Config.ipf ∧ (s.mode ≠ .running → s.slot = 0)

/-- The invariant of R41, with the canonical form of memory and the model's frame bookkeeping. -/
structure Inv (s : State) : Prop where
  memory : Memory.wf s.mem
  reserved : ReservedIntact s
  stack : StackBounded s
  cause : HaltedHasCause s
  slot : SlotSound s

/-- Every address a program can reach: `pc` at most 0x10FE (R26), stack entries at most 0x1000 (R101). -/
structure PcBounded (s : State) : Prop where
  pc : s.pc.toNat ≤ 0x10FE
  stack : ∀ e ∈ s.stack, e.toNat ≤ 0x1000

/-! ### Frames: which parts of the state an instruction may change -/

/-- The parts of the state a frame speaks of (R20); `model` is the model's own three fields. -/
inductive Part where
  | regs | idx | pc | stack | dt | st | mode | kreg | fault | mem | disp | model
  deriving DecidableEq, Repr

/-- A part is the same in both states; memory byte by byte, the display pixel by pixel. -/
def Kept (s t : State) : Part → Prop
  | .regs => ∀ z, t.reg z = s.reg z
  | .idx => t.idx = s.idx
  | .pc => t.pc = s.pc
  | .stack => t.stack = s.stack
  | .dt => t.dt = s.dt
  | .st => t.st = s.st
  | .mode => t.mode = s.mode
  | .kreg => t.kreg = s.kreg
  | .fault => t.fcause = s.fcause ∧ t.finfo = s.finfo
  | .mem => ∀ a, t.byteAt a = s.byteAt a
  | .disp => ∀ px py, t.pixel px py = s.pixel px py
  | .model => t.slot = s.slot ∧ t.now = s.now ∧ t.loadable = s.loadable

/-- Nothing but the listed parts changes. -/
def OnlyChanges (ps : List Part) (s t : State) : Prop := ∀ p, p ∉ ps → Kept s t p

/-- The machine has halted with a cause code and its information, and nothing else has changed (R203). -/
def HaltsWith (code : Nat) (info : Word) (s t : State) : Prop :=
  t.mode = .halted ∧ t.fcause.toNat = code ∧ t.finfo = info ∧ OnlyChanges [.mode, .fault] s t

/-- The parts an instruction may change when it does not fault: `pc` (R24) and what R20 lists. -/
def writtenParts : Instr → List Part
  | .cls => [.pc, .disp]
  | .ret | .call _ => [.pc, .stack]
  | .jp _ | .jpV0 _ | .seImm _ _ | .sneImm _ _ | .seReg _ _ | .sneReg _ _ | .skp _ | .sknp _ => [.pc]
  | .ldImm _ _ | .addImm _ _ | .ldReg _ _ | .orReg _ _ | .andReg _ _ | .xorReg _ _ => [.pc, .regs]
  | .addReg _ _ | .sub _ _ | .shr _ | .subn _ _ | .shl _ | .rnd _ _ | .ldFromDT _ | .load _ => [.pc, .regs]
  | .ldI _ | .addI _ | .ldFont _ => [.pc, .idx]
  | .drw _ _ _ => [.pc, .regs, .disp]
  | .ldKey _ => [.pc, .mode, .kreg]
  | .ldToDT _ => [.pc, .dt]
  | .ldToST _ => [.pc, .st]
  | .ldBcd _ | .store _ => [.pc, .mem]

/-- The general registers an instruction writes: its destination (R21) and, where it defines a flag, `VF` (R22). -/
def writesReg : Instr → RegIx → Prop
  | .ldImm x _, z | .addImm x _, z | .ldReg x _, z | .orReg x _, z | .andReg x _, z | .xorReg x _, z => z = x
  | .rnd x _, z | .ldFromDT x, z => z = x
  | .addReg x _, z | .sub x _, z | .shr x, z | .subn x _, z | .shl x, z => z = x ∨ z = vf
  | .drw _ _ _, z => z = vf
  | .load x, z => z.val ≤ x.val
  | .cls, _ | .ret, _ | .jp _, _ | .call _, _ | .seImm _ _, _ | .sneImm _ _, _ | .seReg _ _, _ => False
  | .sneReg _ _, _ | .ldI _, _ | .jpV0 _, _ | .skp _, _ | .sknp _, _ | .ldKey _, _ | .ldToDT _, _ => False
  | .ldToST _, _ | .addI _, _ | .ldFont _, _ | .ldBcd _, _ | .store _, _ => False

/-- The addresses an instruction stores to: `base + k` for `k` below the count of R176, R177. -/
def storesTo (i : Instr) (s : State) (a : Nat) : Prop :=
  match i with
  | .ldBcd _ => base s ≤ a ∧ a < base s + 3
  | .store x => base s ≤ a ∧ a < base s + (x.val + 1)
  | .cls | .ret | .jp _ | .call _ | .seImm _ _ | .sneImm _ _ | .seReg _ _ | .ldImm _ _ | .addImm _ _ => False
  | .ldReg _ _ | .orReg _ _ | .andReg _ _ | .xorReg _ _ | .addReg _ _ | .sub _ _ | .shr _ | .subn _ _ => False
  | .shl _ | .sneReg _ _ | .ldI _ | .jpV0 _ | .rnd _ _ | .drw _ _ _ | .skp _ | .sknp _ => False
  | .ldFromDT _ | .ldKey _ | .ldToDT _ | .ldToST _ | .addI _ | .ldFont _ | .load _ => False

/-- The mask of a sprite (R152): a 1 at (`(xv + c) mod 64`, `(yv + r) mod 32`) exactly when bit `7 - c` of
`mem[a + r]` is 1. -/
def InSprite (s : State) (xv yv : Byte) (a n : Nat) (px : PixelX) (py : PixelY) : Prop :=
  ∃ r, r < n ∧ ∃ c, c < 8 ∧ (xv.toNat + c) % 64 = px.val ∧ (yv.toNat + r) % 32 = py.val ∧
    (s.byteAt (a + r)).getLsbD (7 - c) = true

end Sys2Proof.Machine
end

