-- ==== Sys2Proof/Certificates/Slice0/Obligations.lean ====
section
/-! DEFINITION. The statements about the model, each from a numbered rule of the spec. -/

open Sys2Proof Sys2Proof.Machine

/-! ### Encoding -/

/-- R86: encoding is the inverse of decoding, for every instruction and every operand value its fields admit. -/
def Obligations.DecodeOfEncodeIsInstr : Prop :=
  ∀ i : Instr, i.wf = true → decodeWord (encode i) = .instr i

/-- R79, R86: a legal word decodes to a well-formed instruction whose word is that word with its ignored
bits 0. -/
def Obligations.DecodedWordReencodes : Prop :=
  ∀ (w : Word) (i : Instr), decodeWord w = .instr i → i.wf = true ∧ encode i = w &&& examinedBits i

/-- R80: the illegal words are exactly the four sets, each rejected under its own name. -/
def Obligations.IllegalWordsAreTheFourSets : Prop :=
  ∀ w : Word,
    (decodeWord w = .illegal .family0 ↔ w.toNat < 0x1000 ∧ w ≠ 0x00E0 ∧ w ≠ 0x00EE) ∧
    (decodeWord w = .illegal .family8 ↔
      w.toNat / 4096 = 8 ∧ w.toNat % 16 ∈ [0x8, 0x9, 0xA, 0xB, 0xC, 0xD, 0xF]) ∧
    (decodeWord w = .illegal .familyE ↔ w.toNat / 4096 = 14 ∧ w.toNat % 256 ∉ [0x9E, 0xA1]) ∧
    (decodeWord w = .illegal .familyF ↔ w.toNat / 4096 = 15 ∧
      w.toNat % 256 ∉ [0x07, 0x0A, 0x15, 0x18, 0x1E, 0x29, 0x33, 0x55, 0x65]) ∧
    decodeWord w ≠ .illegal .truncated

/-- R78: the rows are disjoint, a legal word selects the row of its instruction alone, an illegal word none. -/
def Obligations.EveryWordSelectsItsRowAlone : Prop :=
  ∀ w : Word,
    (∀ i, decodeWord w = .instr i → opcodeRows.filter (fun r => r.selects w) = [opcodeRow i]) ∧
    (∀ r, decodeWord w = .illegal r → opcodeRows.filter (fun r => r.selects w) = [])

/-- R86 and the source's examples: words written out from the formats decode to what they stand for. -/
def Obligations.SampleWordsDecode : Prop :=
  decodeWord 0x8374 = .instr (.addReg 3 7) ∧ decodeWord 0xD125 = .instr (.drw 1 2 5) ∧
  decodeWord 0x600A = .instr (.ldImm 0 0x0A) ∧ decodeWord 0x7005 = .instr (.addImm 0 0x05) ∧
  decodeWord 0x00E0 = .instr .cls ∧ decodeWord 0x00EE = .instr .ret ∧
  decodeWord 0x1ABC = .instr (.jp 0xABC) ∧ decodeWord 0xEF9E = .instr (.skp 15) ∧
  decodeWord 0xF255 = .instr (.store 2) ∧ decodeWord 0x0000 = .illegal .family0

/-! ### The cycle and its faults -/

/-- R76, R211: when the two bytes at `pc` decode to `i`, a step of a running machine is `exec i`, then the input
time advances and the slot of the frame closes. -/
def Obligations.StepRunsDecodedInstruction : Prop :=
  ∀ (s : State) (i : Instr), s.mode = .running → s.pc.toNat ≤ 0xFFE →
    decodeBytes [s.byteAt s.pc.toNat, s.byteAt (s.pc.toNat + 1)] = (.instr i, []) →
    i.wf = true ∧ step s = thenApply (exec i s) (fun t => closeSlot (afterCycle t))

/-- R57: the fetch is two bytes big-endian at any `pc` up to 0xFFE; above it the cycle halts the machine with
cause 4 and `FINFO` the `pc` (the spec's decision D5). -/
def Obligations.FetchIsBigEndianOrFaults : Prop :=
  ∀ s : State,
    (s.pc.toNat ≤ 0xFFE → ∃ w, fetch s = some w ∧
      w.toNat = (s.byteAt s.pc.toNat).toNat * 256 + (s.byteAt (s.pc.toNat + 1)).toNat) ∧
    (s.pc.toNat > 0xFFE → fetch s = none ∧ ∃ t, fetchAndExec s = .next t ∧ HaltsWith 4 s.pc s t)

/-- R80, R201: a fetched word that matches no row halts the machine with cause 1 and `FINFO` the word. -/
def Obligations.IllegalWordHaltsWithItself : Prop :=
  ∀ (s : State) (w : Word) (r : Reject), fetch s = some w → decodeWord w = .illegal r →
    ∃ t, fetchAndExec s = .next t ∧ HaltsWith 1 w s t

/-- R203, R77: after a step that faults, every register, timer, byte, stack entry and pixel and `pc` are as the
cycle found them; the cause is one of the six; `FINFO` is the fetched word, or `pc` when the fetch failed (the
spec's decisions D8, D9). -/
def Obligations.FaultsArePrecise : Prop :=
  ∀ s t : State, s.mode = .running → step s = .next t → t.mode = .halted →
    OnlyChanges [.mode, .fault, .model] s t ∧
    1 ≤ t.fcause.toNat ∧ t.fcause.toNat ≤ 6 ∧
    (t.fcause.toNat = 4 → t.finfo = s.pc ∧ s.pc.toNat > 0xFFE) ∧
    (t.fcause.toNat ≠ 4 → fetch s = some t.finfo)

/-- R202: which instruction can raise what; every other, once decoded, completes. -/
def Obligations.FaultsComeFromTheirInstructions : Prop :=
  ∀ (i : Instr) (s t : State), s.mode = .running → exec i s = .next t → t.mode = .halted →
    (i = .ret ∧ t.fcause.toNat = 2) ∨
    (∃ nnn, i = .call nnn ∧ t.fcause.toNat = 3) ∨
    ((∃ x y n, i = .drw x y n) ∧ t.fcause.toNat = 5) ∨
    ((∃ x, i = .load x) ∧ t.fcause.toNat = 5) ∨
    ((∃ x, i = .ldBcd x ∨ i = .store x) ∧ (t.fcause.toNat = 5 ∨ t.fcause.toNat = 6))

/-- No instruction and no step of this machine stops in a fault outcome or a refusal: faults are taken (R203),
waits and halts are states (R204, R211). -/
def Obligations.ExecAndStepAlwaysAnswer : Prop :=
  (∀ (i : Instr) (s : State), ∃ t, exec i s = .next t) ∧ (∀ s : State, ∃ t, step s = .next t)

/-- R204: once halted, a step, a `Frame` and every `KeyDown` change nothing, `TONE` is 0, and `Reset` leaves it (the
spec's decision D10). A move of the host ends the time in which a `Load` may come: the model's own field
(assumption 7). -/
def Obligations.HaltedStaysUntilReset : Prop :=
  ∀ s : State, s.mode = .halted →
    step s = .next s ∧ tone s = false ∧
    (s.slot = 0 → hostMove .frame s = .next (closeLoad s) ∧
      ∀ k, k ≤ 15 → hostMove (.keyDown k) s = .next (closeLoad s)) ∧
    ∃ t, hostMove .reset s = .next t ∧ t.mode = .running ∧ t.fcause = 0 ∧ t.finfo = 0

/-- R211 (a), R219, R41 (d): a step of a waiting machine executes nothing and ticks nothing; it stays waiting, or a
key code arrives in `V[KREG]` and the machine runs; a `Frame` changes nothing (but the model's own field). That the host's choice is a free
value is the model's (assumption 6). -/
def Obligations.WaitingExecutesNothing : Prop :=
  ∀ s : State, s.mode = .awaitingKey → (s.slot = 0 → hostMove .frame s = .next (closeLoad s)) ∧
    ∃ t, step s = .next t ∧
    (OnlyChanges [.model] s t ∨
      (OnlyChanges [.regs, .mode, .model] s t ∧ t.mode = .running ∧ (t.reg s.kreg).toNat ≤ 15 ∧
        ∀ z, z ≠ s.kreg → t.reg z = s.reg z))

/-- R31: the transitions of `MODE` in a step, which are all there are but `Reset`. -/
def Obligations.ModeTransitionsOfAStep : Prop :=
  ∀ s t : State, step s = .next t →
    t.mode = s.mode ∨
    (s.mode = .running ∧ t.mode = .awaitingKey ∧
      ∃ w x, fetch s = some w ∧ decodeWord w = .instr (.ldKey x) ∧ t.kreg = x) ∨
    (s.mode = .awaitingKey ∧ t.mode = .running) ∨
    (s.mode = .running ∧ t.mode = .halted ∧ t.fcause ≠ 0)

/-! ### Families 0 to 7 -/

/-- R100: CLS turns every pixel off and touches nothing else. -/
def Obligations.ClsClearsTheDisplay : Prop :=
  ∀ s : State, ∃ t, exec .cls s = .next t ∧ t.pc = s.pc + 2 ∧ (∀ px py, t.pixel px py = false) ∧
    OnlyChanges [.pc, .disp] s t

/-- R101: RET pops the last entry into `pc`; on an empty stack it halts with cause 2 and `FINFO` 0x00EE. -/
def Obligations.RetPopsOrUnderflows : Prop :=
  ∀ s : State,
    (∀ a rest, s.stack = a :: rest → ∃ t, exec .ret s = .next t ∧ t.pc = a ∧ t.stack = rest ∧
      OnlyChanges [.pc, .stack] s t) ∧
    (s.stack = [] → ∃ t, exec .ret s = .next t ∧ HaltsWith 2 0x00EE s t)

/-- R102: `pc` becomes `nnn`, zero-extended, and nothing else changes. -/
def Obligations.JpSetsPc : Prop :=
  ∀ (nnn : Addr12) (s : State), ∃ t, exec (.jp nnn) s = .next t ∧ t.pc.toNat = nnn.toNat ∧
    OnlyChanges [.pc] s t

/-- R142: `pc` becomes `V[0] + nnn`, not reduced to 12 bits (the spec's decision D5), and nothing else changes. -/
def Obligations.JpV0AddsInSixteenBits : Prop :=
  ∀ (nnn : Addr12) (s : State), ∃ t, exec (.jpV0 nnn) s = .next t ∧
    t.pc.toNat = (s.reg 0).toNat + nnn.toNat ∧ OnlyChanges [.pc] s t

/-- R103: CALL pushes the address after itself and jumps; with `STACK_DEPTH` entries on the stack it halts with
cause 3 and `FINFO` its word (overflow is the spec's decision D7; the depth is an open parameter, assumption 2). -/
def Obligations.CallPushesOrOverflows : Prop :=
  ∀ (nnn : Addr12) (s : State),
    (Config.stackDepth ≠ some s.stack.length → ∃ t, exec (.call nnn) s = .next t ∧
      t.stack = (s.pc + 2) :: s.stack ∧ t.pc.toNat = nnn.toNat ∧ OnlyChanges [.pc, .stack] s t) ∧
    (Config.stackDepth = some s.stack.length → ∃ t, exec (.call nnn) s = .next t ∧
      HaltsWith 3 (0x2000 ||| nnn.setWidth 16) s t)

/-- R104, R105: the immediate skips add 2 more to `pc` exactly when their condition holds. -/
def Obligations.ImmediateSkips : Prop :=
  ∀ (x : RegIx) (kk : Byte) (s : State),
    (∃ t, exec (.seImm x kk) s = .next t ∧ t.pc = (if s.reg x = kk then s.pc + 4 else s.pc + 2) ∧
      OnlyChanges [.pc] s t) ∧
    (∃ t, exec (.sneImm x kk) s = .next t ∧ t.pc = (if s.reg x = kk then s.pc + 2 else s.pc + 4) ∧
      OnlyChanges [.pc] s t)

/-- R106, R140: the register skips add 2 more to `pc` exactly when their condition holds. -/
def Obligations.RegisterSkips : Prop :=
  ∀ (x y : RegIx) (s : State),
    (∃ t, exec (.seReg x y) s = .next t ∧ t.pc = (if s.reg x = s.reg y then s.pc + 4 else s.pc + 2) ∧
      OnlyChanges [.pc] s t) ∧
    (∃ t, exec (.sneReg x y) s = .next t ∧ t.pc = (if s.reg x = s.reg y then s.pc + 2 else s.pc + 4) ∧
      OnlyChanges [.pc] s t)

/-- R107, R108: load immediate, and add immediate modulo 256 with no flag, for every destination, `VF` too. -/
def Obligations.ImmediateLoadAndAdd : Prop :=
  ∀ (x : RegIx) (kk : Byte) (s : State),
    (∃ t, exec (.ldImm x kk) s = .next t ∧ t.pc = s.pc + 2 ∧ t.reg x = kk ∧
      (∀ z, z ≠ x → t.reg z = s.reg z) ∧ OnlyChanges [.pc, .regs] s t) ∧
    (∃ t, exec (.addImm x kk) s = .next t ∧ t.pc = s.pc + 2 ∧
      (t.reg x).toNat = ((s.reg x).toNat + kk.toNat) % 256 ∧
      (∀ z, z ≠ x → t.reg z = s.reg z) ∧ OnlyChanges [.pc, .regs] s t)

/-- The source's stack round trip (R101, R103): a RET from any state whose stack is the one a CALL left returns to
the instruction after the CALL and restores the stack. -/
def Obligations.CallThenRetReturns : Prop :=
  ∀ (nnn : Addr12) (s t u : State), Config.stackDepth ≠ some s.stack.length → exec (.call nnn) s = .next t →
    u.stack = t.stack → ∃ w, exec .ret u = .next w ∧ w.pc = s.pc + 2 ∧ w.stack = s.stack

/-! ### Family 8 -/

/-- R121 to R124: move, or, and, xor, bit by bit; `VF` keeps its value unless it is the destination. -/
def Obligations.MoveAndLogic : Prop :=
  ∀ (x y : RegIx) (s : State),
    (∃ t, exec (.ldReg x y) s = .next t ∧ t.pc = s.pc + 2 ∧ t.reg x = s.reg y ∧
      (∀ z, z ≠ x → t.reg z = s.reg z) ∧ OnlyChanges [.pc, .regs] s t) ∧
    (∃ t, exec (.orReg x y) s = .next t ∧ t.pc = s.pc + 2 ∧
      (∀ k, (t.reg x).getLsbD k = ((s.reg x).getLsbD k || (s.reg y).getLsbD k)) ∧
      (∀ z, z ≠ x → t.reg z = s.reg z) ∧ OnlyChanges [.pc, .regs] s t) ∧
    (∃ t, exec (.andReg x y) s = .next t ∧ t.pc = s.pc + 2 ∧
      (∀ k, (t.reg x).getLsbD k = ((s.reg x).getLsbD k && (s.reg y).getLsbD k)) ∧
      (∀ z, z ≠ x → t.reg z = s.reg z) ∧ OnlyChanges [.pc, .regs] s t) ∧
    (∃ t, exec (.xorReg x y) s = .next t ∧ t.pc = s.pc + 2 ∧
      (∀ k, (t.reg x).getLsbD k = ((s.reg x).getLsbD k != (s.reg y).getLsbD k)) ∧
      (∀ z, z ≠ x → t.reg z = s.reg z) ∧ OnlyChanges [.pc, .regs] s t)

/-- R125, R131: sum modulo 256 in `V[x]`, carry in `VF`; with `x = 15` the sum is what `VF` holds (the
spec's decision D11). -/
def Obligations.AddWritesSumAndCarry : Prop :=
  ∀ (x y : RegIx) (s : State), ∃ t, exec (.addReg x y) s = .next t ∧ t.pc = s.pc + 2 ∧
    (t.reg x).toNat = ((s.reg x).toNat + (s.reg y).toNat) % 256 ∧
    (x ≠ vf → (t.reg vf).toNat = if (s.reg x).toNat + (s.reg y).toNat > 255 then 1 else 0) ∧
    (∀ z, z ≠ x → z ≠ vf → t.reg z = s.reg z) ∧ OnlyChanges [.pc, .regs] s t

/-- R126, R131: difference modulo 256 in `V[x]`, `VF` 1 iff strictly greater; with `x = 15` the difference stays (the
spec's decision D11). -/
def Obligations.SubWritesDifferenceAndGreater : Prop :=
  ∀ (x y : RegIx) (s : State), ∃ t, exec (.sub x y) s = .next t ∧ t.pc = s.pc + 2 ∧
    ((t.reg x).toNat : Int) = (((s.reg x).toNat : Int) - ((s.reg y).toNat : Int)) % 256 ∧
    (x ≠ vf → (t.reg vf).toNat = if (s.reg x).toNat > (s.reg y).toNat then 1 else 0) ∧
    (∀ z, z ≠ x → z ≠ vf → t.reg z = s.reg z) ∧ OnlyChanges [.pc, .regs] s t

/-- R128, R131: the reverse difference modulo 256, `VF` 1 iff `V[y]` is strictly greater (`VF` as an operand: the
spec's decision D11). -/
def Obligations.SubnWritesReverseDifference : Prop :=
  ∀ (x y : RegIx) (s : State), ∃ t, exec (.subn x y) s = .next t ∧ t.pc = s.pc + 2 ∧
    ((t.reg x).toNat : Int) = (((s.reg y).toNat : Int) - ((s.reg x).toNat : Int)) % 256 ∧
    (x ≠ vf → (t.reg vf).toNat = if (s.reg y).toNat > (s.reg x).toNat then 1 else 0) ∧
    (∀ z, z ≠ x → z ≠ vf → t.reg z = s.reg z) ∧ OnlyChanges [.pc, .regs] s t

/-- R127, R131: half of `V[x]`, `VF` the bit shifted out; `V[y]` takes no part (`x = 15`: the spec's decision D11). -/
def Obligations.ShrHalvesAndKeepsLowBit : Prop :=
  ∀ (x : RegIx) (s : State), ∃ t, exec (.shr x) s = .next t ∧ t.pc = s.pc + 2 ∧
    (t.reg x).toNat = (s.reg x).toNat / 2 ∧ (x ≠ vf → (t.reg vf).toNat = (s.reg x).toNat % 2) ∧
    (∀ z, z ≠ x → z ≠ vf → t.reg z = s.reg z) ∧ OnlyChanges [.pc, .regs] s t

/-- R129, R131: twice `V[x]` modulo 256, `VF` 0x80 or 0x00, the bit shifted out stored raw (the spec's decisions D11,
D20). -/
def Obligations.ShlDoublesAndKeepsRawHighBit : Prop :=
  ∀ (x : RegIx) (s : State), ∃ t, exec (.shl x) s = .next t ∧ t.pc = s.pc + 2 ∧
    (t.reg x).toNat = 2 * (s.reg x).toNat % 256 ∧
    (x ≠ vf → (t.reg vf).toNat = if (s.reg x).toNat ≥ 128 then 128 else 0) ∧
    (∀ z, z ≠ x → z ≠ vf → t.reg z = s.reg z) ∧ OnlyChanges [.pc, .regs] s t

/-- Laws of the ALU (R130): ADD then SUB restores `V[x]`, XOR twice restores `V[x]`, SHL then SHR restores it iff
bit 7 was 0, and SUB and SUBN give results that sum to 0 modulo 256. -/
def Obligations.AluRoundTrips : Prop :=
  ∀ (x y : RegIx) (s : State), x ≠ vf → x ≠ y →
    (y ≠ vf → ∀ t u, exec (.addReg x y) s = .next t → exec (.sub x y) t = .next u → u.reg x = s.reg x) ∧
    (∀ t u, exec (.xorReg x y) s = .next t → exec (.xorReg x y) t = .next u → u.reg x = s.reg x) ∧
    (∀ t u, exec (.shl x) s = .next t → exec (.shr x) t = .next u →
      (u.reg x = s.reg x ↔ (s.reg x).toNat < 128)) ∧
    (∀ t u, exec (.sub x y) s = .next t → exec (.subn x y) s = .next u → t.reg x + u.reg x = 0)

/-! ### Families 9 to C, E and F -/

/-- R141, R174, R175: the writes of `I`: `nnn`, `(I + V[x]) mod 65536`, `5 * V[x]`. -/
def Obligations.IndexWrites : Prop :=
  ∀ (nnn : Addr12) (x : RegIx) (s : State),
    (∃ t, exec (.ldI nnn) s = .next t ∧ t.pc = s.pc + 2 ∧ t.idx.toNat = nnn.toNat ∧
      OnlyChanges [.pc, .idx] s t) ∧
    (∃ t, exec (.addI x) s = .next t ∧ t.pc = s.pc + 2 ∧
      t.idx.toNat = (s.idx.toNat + (s.reg x).toNat) % 65536 ∧ OnlyChanges [.pc, .idx] s t) ∧
    (∃ t, exec (.ldFont x) s = .next t ∧ t.pc = s.pc + 2 ∧ t.idx.toNat = (s.reg x).toNat * 5 ∧
      OnlyChanges [.pc, .idx] s t)

/-- R143: the byte on the `RND` input, whatever it is, masked by `kk`. The byte is a free value (the spec's decision
D13, assumption 4). -/
def Obligations.RndMasksTheRandomByte : Prop :=
  ∀ (x : RegIx) (kk : Byte) (s : State), ∃ t, exec (.rnd x kk) s = .next t ∧ t.pc = s.pc + 2 ∧
    t.reg x = Config.randomByte s.now &&& kk ∧ t.reg x &&& ~~~kk = 0 ∧
    (∀ z, z ≠ x → t.reg z = s.reg z) ∧ OnlyChanges [.pc, .regs] s t

/-- R160 to R162: SKP skips iff the key named by `V[x]` is down at the sampled levels, SKNP iff not; a code above
15 names no key (the spec's decision D12). The levels are a free value (assumption 5). -/
def Obligations.KeySkips : Prop :=
  ∀ (x : RegIx) (s : State),
    (∃ t, exec (.skp x) s = .next t ∧
      t.pc = (if (s.reg x).toNat ≤ 15 ∧ (Config.keyLevels s.now).getLsbD (s.reg x).toNat = true
        then s.pc + 4 else s.pc + 2) ∧ OnlyChanges [.pc] s t) ∧
    (∃ t, exec (.sknp x) s = .next t ∧
      t.pc = (if (s.reg x).toNat ≤ 15 ∧ (Config.keyLevels s.now).getLsbD (s.reg x).toNat = true
        then s.pc + 2 else s.pc + 4) ∧ OnlyChanges [.pc] s t)

/-- R170, R172, R173: the timer moves; `TONE` follows the sound timer as a level. -/
def Obligations.TimerMoves : Prop :=
  ∀ (x : RegIx) (s : State),
    (∃ t, exec (.ldFromDT x) s = .next t ∧ t.pc = s.pc + 2 ∧ t.reg x = s.dt ∧
      (∀ z, z ≠ x → t.reg z = s.reg z) ∧ OnlyChanges [.pc, .regs] s t) ∧
    (∃ t, exec (.ldToDT x) s = .next t ∧ t.pc = s.pc + 2 ∧ t.dt = s.reg x ∧ OnlyChanges [.pc, .dt] s t) ∧
    (∃ t, exec (.ldToST x) s = .next t ∧ t.pc = s.pc + 2 ∧ t.st = s.reg x ∧ OnlyChanges [.pc, .st] s t ∧
      (s.mode ≠ .halted → (tone t = true ↔ s.reg x ≠ 0)))

/-- R171, R210: LD Vx, K enters the wait for `V[x]` and completes at `pc + 2` with no register written; a `KeyDown(k)`
then puts `k` in `V[x]`, leaves `pc` there and runs. -/
def Obligations.KeyWaitThenKeyDown : Prop :=
  ∀ (x : RegIx) (s : State), ∃ t, exec (.ldKey x) s = .next t ∧ t.pc = s.pc + 2 ∧ t.mode = .awaitingKey ∧
    t.kreg = x ∧ OnlyChanges [.pc, .mode, .kreg] s t ∧
    ∀ k, k ≤ 15 → ∃ u, keyDown k t = .next u ∧ (u.reg x).toNat = k ∧ u.mode = .running ∧
      (∀ z, z ≠ x → u.reg z = s.reg z) ∧ OnlyChanges [.regs, .mode] t u

/-- R210: a `KeyDown` with a key code, in each mode: it ends a wait, and is ignored while running and halted; with a
code above 15 it has no meaning and the model refuses it (the spec's decision D22, assumption 9). -/
def Obligations.KeyDownInEveryMode : Prop :=
  ∀ (k : Nat) (s : State),
    (k ≤ 15 → s.mode ≠ .awaitingKey → keyDown k s = .next s) ∧
    (k ≤ 15 → s.mode = .awaitingKey → ∃ t, keyDown k s = .next t ∧ (t.reg s.kreg).toNat = k ∧
      t.mode = .running ∧ (∀ z, z ≠ s.kreg → t.reg z = s.reg z) ∧ OnlyChanges [.regs, .mode] s t) ∧
    (15 < k → keyDown k s = .refused .keyCodeOutOfRange)

/-- R176: with the three addresses in 0x200-0xFFF, BCD stores hundreds, tens and units of `V[x]`, one digit a byte,
at `I`, `I + 1`, `I + 2`; every other byte, and every register, stays. -/
def Obligations.BcdStoresThreeDigits : Prop :=
  ∀ (x : RegIx) (s : State), Memory.wf s.mem → 0x200 ≤ s.idx.toNat → s.idx.toNat + 2 ≤ 0xFFF →
    ∃ t, exec (.ldBcd x) s = .next t ∧ t.pc = s.pc + 2 ∧
      (t.byteAt s.idx.toNat).toNat = (s.reg x).toNat / 100 ∧
      (t.byteAt (s.idx.toNat + 1)).toNat = (s.reg x).toNat / 10 % 10 ∧
      (t.byteAt (s.idx.toNat + 2)).toNat = (s.reg x).toNat % 10 ∧
      (∀ a, ¬ storesTo (.ldBcd x) s a → t.byteAt a = s.byteAt a) ∧ OnlyChanges [.pc, .mem] s t

/-- R177: with the addresses in 0x200-0xFFF, the block store puts `V[k]` at `I + k` for `k` up to `x`; every other
byte, `I` and every register stay (the spec's decision D21). -/
def Obligations.StoreWritesTheBlock : Prop :=
  ∀ (x : RegIx) (s : State), Memory.wf s.mem → 0x200 ≤ s.idx.toNat → s.idx.toNat + x.val ≤ 0xFFF →
    ∃ t, exec (.store x) s = .next t ∧ t.pc = s.pc + 2 ∧
      (∀ z : RegIx, z.val ≤ x.val → t.byteAt (s.idx.toNat + z.val) = s.reg z) ∧
      (∀ a, ¬ storesTo (.store x) s a → t.byteAt a = s.byteAt a) ∧ OnlyChanges [.pc, .mem] s t

/-- R178: with the addresses inside memory, the block load puts the byte at `I + k` in `V[k]` for `k` up to `x`; the
registers above `x`, `I` and memory stay (the spec's decision D21). -/
def Obligations.LoadReadsTheBlock : Prop :=
  ∀ (x : RegIx) (s : State), s.idx.toNat + x.val ≤ 0xFFF →
    ∃ t, exec (.load x) s = .next t ∧ t.pc = s.pc + 2 ∧
      (∀ z : RegIx, z.val ≤ x.val → t.reg z = s.byteAt (s.idx.toNat + z.val)) ∧
      (∀ z : RegIx, x.val < z.val → t.reg z = s.reg z) ∧ OnlyChanges [.pc, .regs] s t

/-- R179: a store that starts in 0x000-0x1FF halts with cause 6; one that starts at 0x200 or above and runs past
0xFFF halts with cause 5; `FINFO` is the word, and no byte and no register has changed (the spec's decisions D4, D6,
D9). -/
def Obligations.StoresFaultBeforeAnyWrite : Prop :=
  ∀ (x : RegIx) (s : State),
    (s.idx.toNat ≤ 0x1FF →
      (∃ t, exec (.ldBcd x) s = .next t ∧ HaltsWith 6 (encode (.ldBcd x)) s t) ∧
      (∃ t, exec (.store x) s = .next t ∧ HaltsWith 6 (encode (.store x)) s t)) ∧
    (0x200 ≤ s.idx.toNat → 0xFFF < s.idx.toNat + 2 →
      ∃ t, exec (.ldBcd x) s = .next t ∧ HaltsWith 5 (encode (.ldBcd x)) s t) ∧
    (0x200 ≤ s.idx.toNat → 0xFFF < s.idx.toNat + x.val →
      ∃ t, exec (.store x) s = .next t ∧ HaltsWith 5 (encode (.store x)) s t)

/-- R154, R178: a sprite or a block load that would read above 0xFFF halts with cause 5, before any effect
(the spec's decisions D4, D9). -/
def Obligations.ReadsFaultBeforeAnyEffect : Prop :=
  ∀ (x y : RegIx) (n : Nat) (s : State),
    (0xFFF < s.idx.toNat + x.val →
      ∃ t, exec (.load x) s = .next t ∧ HaltsWith 5 (encode (.load x)) s t) ∧
    (0 < n → 0xFFF < s.idx.toNat + n - 1 →
      ∃ t, exec (.drw x y n) s = .next t ∧ HaltsWith 5 (encode (.drw x y n)) s t)

/-- R177, R178: a block store followed by a block load with the same `x` and `I` leaves every register as it was. -/
def Obligations.StoreThenLoadRestores : Prop :=
  ∀ (x : RegIx) (s t u : State), Memory.wf s.mem → 0x200 ≤ s.idx.toNat → s.idx.toNat + x.val ≤ 0xFFF →
    exec (.store x) s = .next t → exec (.load x) t = .next u →
    t.mode = s.mode ∧ u.mode = s.mode ∧ ∀ z, u.reg z = s.reg z

/-! ### Family D -/

/-- R150 to R152: the draw is `DISP XOR M` for the sprite's mask `M`, wrapped on both axes, and `VF` is 1 iff some
pixel of `M` was on; nothing else changes. The height is a 4-bit count (well-formedness); the wrap is the spec's
decision D3, the latched coordinates are D11. -/
def Obligations.DrawIsXorWithTheMask : Prop :=
  ∀ (x y : RegIx) (n : Nat) (s : State), (Instr.drw x y n).wf = true → (n = 0 ∨ s.idx.toNat + n - 1 ≤ 0xFFF) →
    ∃ t, exec (.drw x y n) s = .next t ∧ t.pc = s.pc + 2 ∧
      (∀ px py, InSprite s (s.reg x) (s.reg y) s.idx.toNat n px py → t.pixel px py = !s.pixel px py) ∧
      (∀ px py, ¬ InSprite s (s.reg x) (s.reg y) s.idx.toNat n px py → t.pixel px py = s.pixel px py) ∧
      ((∃ px py, InSprite s (s.reg x) (s.reg y) s.idx.toNat n px py ∧ s.pixel px py = true) → t.reg vf = 1) ∧
      ((¬ ∃ px py, InSprite s (s.reg x) (s.reg y) s.idx.toNat n px py ∧ s.pixel px py = true) → t.reg vf = 0) ∧
      (∀ z, z ≠ vf → t.reg z = s.reg z) ∧ OnlyChanges [.pc, .regs, .disp] s t

/-- R152, draw idempotence: the identical sprite drawn twice restores the display, and the second `VF` is 1 iff some
pixel of the sprite was off before the first draw (`x`, `y` other than `VF`, whose value the first draw changes). -/
def Obligations.DrawTwiceRestores : Prop :=
  ∀ (x y : RegIx) (n : Nat) (s t u : State), (Instr.drw x y n).wf = true → x ≠ vf → y ≠ vf →
    (n = 0 ∨ s.idx.toNat + n - 1 ≤ 0xFFF) →
    exec (.drw x y n) s = .next t → exec (.drw x y n) t = .next u →
    (∀ px py, u.pixel px py = s.pixel px py) ∧
    (u.reg vf = 1 ↔
      ∃ px py, InSprite s (s.reg x) (s.reg y) s.idx.toNat n px py ∧ s.pixel px py = false)

/-! ### The whole machine -/

/-- R20, R24, R109: an instruction that does not fault changes only its own parts of the state, and of memory only
the bytes it stores to. -/
def Obligations.InstructionsChangeOnlyTheirParts : Prop :=
  ∀ (i : Instr) (s t : State), s.mode = .running → exec i s = .next t → t.mode ≠ .halted →
    OnlyChanges (writtenParts i) s t ∧ ∀ a, ¬ storesTo i s a → t.byteAt a = s.byteAt a

/-- R21, R22: an instruction writes no general register but its destination and, where it defines a flag, `VF`; in
particular no other instruction writes `VF`. -/
def Obligations.InstructionsWriteOnlyTheirRegisters : Prop :=
  ∀ (i : Instr) (s t : State) (z : RegIx), exec i s = .next t → ¬ writesReg i z → t.reg z = s.reg z

/-- R52, R58: no step changes a byte of 0x000-0x1FF, from any state whatever (the spec's decision D6). -/
def Obligations.ReservedRegionNeverChanges : Prop :=
  ∀ s t : State, step s = .next t → ∀ a, a ≤ 0x1FF → t.byteAt a = s.byteAt a

/-- The invariant of R41, with the canonical form of memory and the frame bookkeeping, holds at reset. -/
def Obligations.InvariantAtReset : Prop := Inv State.reset

/-- R41: every step keeps the invariant. -/
def Obligations.StepKeepsInvariant : Prop :=
  ∀ s t : State, Inv s → step s = .next t → Inv t

/-- R41: every move of the host keeps the invariant, a whole `Frame` and a `Load` among them. -/
def Obligations.HostMovesKeepInvariant : Prop :=
  ∀ (e : HostMove) (s t : State), Inv s → hostMove e s = .next t → Inv t

/-- R26, R101: at reset `pc` and the stack are within the bounds a program can reach. -/
def Obligations.PcBoundAtReset : Prop := PcBounded State.reset

/-- R26, R101: every step leaves `pc` at most 0x10FE and every stack entry at most 0x1000. -/
def Obligations.StepKeepsPcBound : Prop :=
  ∀ s t : State, PcBounded s → step s = .next t → PcBounded t

/-! ### Events -/

/-- R39, R230: `Reset`, from any state, puts every piece of state to its value (the spec's decision D14); `FONT` is the
default table (assumption 1). -/
def Obligations.ResetSetsEverything : Prop :=
  ∀ s : State, ∃ t, hostMove .reset s = .next t ∧
    (∀ z, t.reg z = 0) ∧ t.idx = 0 ∧ t.pc = 0x200 ∧ t.stack = [] ∧ t.dt = 0 ∧ t.st = 0 ∧
    t.mode = .running ∧ t.kreg = 0 ∧ t.fcause = 0 ∧ t.finfo = 0 ∧ (∀ px py, t.pixel px py = false) ∧
    (∀ a, a < 80 → some (t.byteAt a) = Config.font[a]?) ∧ (∀ a, 80 ≤ a → a ≤ 0xFFF → t.byteAt a = 0) ∧
    tone t = false

/-- R233: directly after `Reset`, an image of at most 3584 bytes is placed verbatim from 0x200 and nothing else
changes; a longer one, or a `Load` after a `Cycle` or after any move of the host but `Reset`, has no meaning and is
refused (the spec's decision D18, assumption 9). -/
def Obligations.LoadPlacesTheImage : Prop :=
  ∀ (image : List Byte) (s : State),
    (image.length ≤ 3584 → ∃ t, hostRun [.reset, .load image] s = .next t ∧
      (∀ j (h : j < image.length), t.byteAt (0x200 + j) = image[j]) ∧
      (∀ a, a < 0x200 ∨ 0x200 + image.length ≤ a → t.byteAt a = (hostReset s).byteAt a) ∧
      OnlyChanges [.mem, .model] (hostReset s) t ∧
      ∀ again, hostMove (.load again) t = .refused .loadNotAfterReset) ∧
    (3584 < image.length → hostRun [.reset, .load image] s = .refused .imageTooLong) ∧
    (∀ t, cycle s = .next t → t.slot = 0 → hostMove (.load image) t = .refused .loadNotAfterReset) ∧
    (∀ e t, e ≠ .reset → hostMove e s = .next t → hostMove (.load image) t = .refused .loadNotAfterReset)

/-- R212: both timers go down by one, floor at 0, and nothing else changes; the end of a `Frame` ticks a running
machine and no other. -/
def Obligations.TickCountsBothTimersDown : Prop :=
  ∀ s : State, (tick s).dt.toNat = s.dt.toNat - 1 ∧ (tick s).st.toNat = s.st.toNat - 1 ∧
    OnlyChanges [.dt, .st] s (tick s) ∧
    (s.mode = .running → tickIfRunning s = tick s) ∧ (s.mode ≠ .running → tickIfRunning s = s)

/-- R211, frame by instruction: after an instruction, a running machine goes to the next slot, or ticks once and
begins a new frame after the `IPF`-th; a machine that waits or has halted ends the frame with no tick. `IPF` is an
open parameter (assumption 3), the slot the model's own field (assumption 7). -/
def Obligations.SlotCloses : Prop :=
  ∀ s : State,
    (s.mode = .running →
      closeSlot s = if s.slot + 1 < Config.ipf then { s with slot := s.slot + 1 } else { tick s with slot := 0 }) ∧
    (s.mode ≠ .running → closeSlot s = { s with slot := 0 })

/-- R211: the event `Frame` is what the steps of one frame do: from the start of a frame it answers the state that at
least one and at most `IPF` steps reach, exactly `IPF` if the machine still runs, and a new frame begins there.
Taking a frame instruction by instruction is the model's (assumption 8). -/
def Obligations.FrameIsItsSteps : Prop :=
  ∀ s : State, s.mode = .running → s.slot = 0 →
    ∃ t k, hostMove .frame s = .next t ∧ 0 < k ∧ k ≤ Config.ipf ∧ core.run k s = .next t ∧ t.slot = 0 ∧
      (t.mode = .running → k = Config.ipf)

/-- R238: from a finished state every step leaves a finished state, and only the timers and the model's own fields
move (finished is the spec's convention D25). -/
def Obligations.FinishedIsFinal : Prop :=
  ∀ s : State, Finished s → ∃ t, step s = .next t ∧ Finished t ∧ OnlyChanges [.dt, .st, .model] s t

/-- R232: a machine that is reset and run with no program faults at its first cycle, whatever the inputs. -/
def Obligations.EmptyMachineFaultsAtOnce : Prop :=
  ∀ s : State, ∃ t u, hostMove .reset s = .next t ∧ step t = .next u ∧ u.mode = .halted ∧ u.fcause = 1 ∧
    u.finfo = 0x0000 ∧ u.pc = 0x200
end

