-- ==== Sys2Proof/Laws/State.lean ====
section
/-! SUPPORT. One lemma per field per update, true by rfl, so that no proof unfolds a record update; and the same
for the three views of a state, `reg`, `byteAt` and `pixel`. -/

namespace Sys2Proof.Machine

/-! ### setV -/

@[simp] theorem setV_v (x : RegIx) (b : Byte) (s : State) : (setV x b s).v = s.v.set x.val b x.isLt := rfl
@[simp] theorem setV_idx (x : RegIx) (b : Byte) (s : State) : (setV x b s).idx = s.idx := rfl
@[simp] theorem setV_pc (x : RegIx) (b : Byte) (s : State) : (setV x b s).pc = s.pc := rfl
@[simp] theorem setV_stack (x : RegIx) (b : Byte) (s : State) : (setV x b s).stack = s.stack := rfl
@[simp] theorem setV_dt (x : RegIx) (b : Byte) (s : State) : (setV x b s).dt = s.dt := rfl
@[simp] theorem setV_st (x : RegIx) (b : Byte) (s : State) : (setV x b s).st = s.st := rfl
@[simp] theorem setV_mode (x : RegIx) (b : Byte) (s : State) : (setV x b s).mode = s.mode := rfl
@[simp] theorem setV_kreg (x : RegIx) (b : Byte) (s : State) : (setV x b s).kreg = s.kreg := rfl
@[simp] theorem setV_fcause (x : RegIx) (b : Byte) (s : State) : (setV x b s).fcause = s.fcause := rfl
@[simp] theorem setV_finfo (x : RegIx) (b : Byte) (s : State) : (setV x b s).finfo = s.finfo := rfl
@[simp] theorem setV_mem (x : RegIx) (b : Byte) (s : State) : (setV x b s).mem = s.mem := rfl
@[simp] theorem setV_disp (x : RegIx) (b : Byte) (s : State) : (setV x b s).disp = s.disp := rfl
@[simp] theorem setV_slot (x : RegIx) (b : Byte) (s : State) : (setV x b s).slot = s.slot := rfl
@[simp] theorem setV_now (x : RegIx) (b : Byte) (s : State) : (setV x b s).now = s.now := rfl
@[simp] theorem setV_loadable (x : RegIx) (b : Byte) (s : State) : (setV x b s).loadable = s.loadable := rfl
@[simp] theorem setV_byteAt (x : RegIx) (b : Byte) (s : State) (z : Nat) : (setV x b s).byteAt z = s.byteAt z := rfl
@[simp] theorem setV_pixel (x : RegIx) (b : Byte) (s : State) (p : PixelX) (q : PixelY) : (setV x b s).pixel p q = s.pixel p q := rfl

/-! ### setI -/

@[simp] theorem setI_v (a : Word) (s : State) : (setI a s).v = s.v := rfl
@[simp] theorem setI_idx (a : Word) (s : State) : (setI a s).idx = a := rfl
@[simp] theorem setI_pc (a : Word) (s : State) : (setI a s).pc = s.pc := rfl
@[simp] theorem setI_stack (a : Word) (s : State) : (setI a s).stack = s.stack := rfl
@[simp] theorem setI_dt (a : Word) (s : State) : (setI a s).dt = s.dt := rfl
@[simp] theorem setI_st (a : Word) (s : State) : (setI a s).st = s.st := rfl
@[simp] theorem setI_mode (a : Word) (s : State) : (setI a s).mode = s.mode := rfl
@[simp] theorem setI_kreg (a : Word) (s : State) : (setI a s).kreg = s.kreg := rfl
@[simp] theorem setI_fcause (a : Word) (s : State) : (setI a s).fcause = s.fcause := rfl
@[simp] theorem setI_finfo (a : Word) (s : State) : (setI a s).finfo = s.finfo := rfl
@[simp] theorem setI_mem (a : Word) (s : State) : (setI a s).mem = s.mem := rfl
@[simp] theorem setI_disp (a : Word) (s : State) : (setI a s).disp = s.disp := rfl
@[simp] theorem setI_slot (a : Word) (s : State) : (setI a s).slot = s.slot := rfl
@[simp] theorem setI_now (a : Word) (s : State) : (setI a s).now = s.now := rfl
@[simp] theorem setI_loadable (a : Word) (s : State) : (setI a s).loadable = s.loadable := rfl
@[simp] theorem setI_reg (a : Word) (s : State) (z : RegIx) : (setI a s).reg z = s.reg z := rfl
@[simp] theorem setI_byteAt (a : Word) (s : State) (z : Nat) : (setI a s).byteAt z = s.byteAt z := rfl
@[simp] theorem setI_pixel (a : Word) (s : State) (p : PixelX) (q : PixelY) : (setI a s).pixel p q = s.pixel p q := rfl

/-! ### setPc -/

@[simp] theorem setPc_v (t : Word) (s : State) : (setPc t s).v = s.v := rfl
@[simp] theorem setPc_idx (t : Word) (s : State) : (setPc t s).idx = s.idx := rfl
@[simp] theorem setPc_pc (t : Word) (s : State) : (setPc t s).pc = t := rfl
@[simp] theorem setPc_stack (t : Word) (s : State) : (setPc t s).stack = s.stack := rfl
@[simp] theorem setPc_dt (t : Word) (s : State) : (setPc t s).dt = s.dt := rfl
@[simp] theorem setPc_st (t : Word) (s : State) : (setPc t s).st = s.st := rfl
@[simp] theorem setPc_mode (t : Word) (s : State) : (setPc t s).mode = s.mode := rfl
@[simp] theorem setPc_kreg (t : Word) (s : State) : (setPc t s).kreg = s.kreg := rfl
@[simp] theorem setPc_fcause (t : Word) (s : State) : (setPc t s).fcause = s.fcause := rfl
@[simp] theorem setPc_finfo (t : Word) (s : State) : (setPc t s).finfo = s.finfo := rfl
@[simp] theorem setPc_mem (t : Word) (s : State) : (setPc t s).mem = s.mem := rfl
@[simp] theorem setPc_disp (t : Word) (s : State) : (setPc t s).disp = s.disp := rfl
@[simp] theorem setPc_slot (t : Word) (s : State) : (setPc t s).slot = s.slot := rfl
@[simp] theorem setPc_now (t : Word) (s : State) : (setPc t s).now = s.now := rfl
@[simp] theorem setPc_loadable (t : Word) (s : State) : (setPc t s).loadable = s.loadable := rfl
@[simp] theorem setPc_reg (t : Word) (s : State) (z : RegIx) : (setPc t s).reg z = s.reg z := rfl
@[simp] theorem setPc_byteAt (t : Word) (s : State) (z : Nat) : (setPc t s).byteAt z = s.byteAt z := rfl
@[simp] theorem setPc_pixel (t : Word) (s : State) (p : PixelX) (q : PixelY) : (setPc t s).pixel p q = s.pixel p q := rfl

/-! ### advance -/

@[simp] theorem advance_v (s : State) : (advance s).v = s.v := rfl
@[simp] theorem advance_idx (s : State) : (advance s).idx = s.idx := rfl
@[simp] theorem advance_pc (s : State) : (advance s).pc = s.pc + 2 := rfl
@[simp] theorem advance_stack (s : State) : (advance s).stack = s.stack := rfl
@[simp] theorem advance_dt (s : State) : (advance s).dt = s.dt := rfl
@[simp] theorem advance_st (s : State) : (advance s).st = s.st := rfl
@[simp] theorem advance_mode (s : State) : (advance s).mode = s.mode := rfl
@[simp] theorem advance_kreg (s : State) : (advance s).kreg = s.kreg := rfl
@[simp] theorem advance_fcause (s : State) : (advance s).fcause = s.fcause := rfl
@[simp] theorem advance_finfo (s : State) : (advance s).finfo = s.finfo := rfl
@[simp] theorem advance_mem (s : State) : (advance s).mem = s.mem := rfl
@[simp] theorem advance_disp (s : State) : (advance s).disp = s.disp := rfl
@[simp] theorem advance_slot (s : State) : (advance s).slot = s.slot := rfl
@[simp] theorem advance_now (s : State) : (advance s).now = s.now := rfl
@[simp] theorem advance_loadable (s : State) : (advance s).loadable = s.loadable := rfl
@[simp] theorem advance_reg (s : State) (z : RegIx) : (advance s).reg z = s.reg z := rfl
@[simp] theorem advance_byteAt (s : State) (z : Nat) : (advance s).byteAt z = s.byteAt z := rfl
@[simp] theorem advance_pixel (s : State) (p : PixelX) (q : PixelY) : (advance s).pixel p q = s.pixel p q := rfl

/-! ### skipIf -/

@[simp] theorem skipIf_v (c : Bool) (s : State) : (skipIf c s).v = s.v := rfl
@[simp] theorem skipIf_idx (c : Bool) (s : State) : (skipIf c s).idx = s.idx := rfl
@[simp] theorem skipIf_pc (c : Bool) (s : State) : (skipIf c s).pc = if c then s.pc + 2 else s.pc := rfl
@[simp] theorem skipIf_stack (c : Bool) (s : State) : (skipIf c s).stack = s.stack := rfl
@[simp] theorem skipIf_dt (c : Bool) (s : State) : (skipIf c s).dt = s.dt := rfl
@[simp] theorem skipIf_st (c : Bool) (s : State) : (skipIf c s).st = s.st := rfl
@[simp] theorem skipIf_mode (c : Bool) (s : State) : (skipIf c s).mode = s.mode := rfl
@[simp] theorem skipIf_kreg (c : Bool) (s : State) : (skipIf c s).kreg = s.kreg := rfl
@[simp] theorem skipIf_fcause (c : Bool) (s : State) : (skipIf c s).fcause = s.fcause := rfl
@[simp] theorem skipIf_finfo (c : Bool) (s : State) : (skipIf c s).finfo = s.finfo := rfl
@[simp] theorem skipIf_mem (c : Bool) (s : State) : (skipIf c s).mem = s.mem := rfl
@[simp] theorem skipIf_disp (c : Bool) (s : State) : (skipIf c s).disp = s.disp := rfl
@[simp] theorem skipIf_slot (c : Bool) (s : State) : (skipIf c s).slot = s.slot := rfl
@[simp] theorem skipIf_now (c : Bool) (s : State) : (skipIf c s).now = s.now := rfl
@[simp] theorem skipIf_loadable (c : Bool) (s : State) : (skipIf c s).loadable = s.loadable := rfl
@[simp] theorem skipIf_reg (c : Bool) (s : State) (z : RegIx) : (skipIf c s).reg z = s.reg z := rfl
@[simp] theorem skipIf_byteAt (c : Bool) (s : State) (z : Nat) : (skipIf c s).byteAt z = s.byteAt z := rfl
@[simp] theorem skipIf_pixel (c : Bool) (s : State) (p : PixelX) (q : PixelY) : (skipIf c s).pixel p q = s.pixel p q := rfl

/-! ### setDT -/

@[simp] theorem setDT_v (b : Byte) (s : State) : (setDT b s).v = s.v := rfl
@[simp] theorem setDT_idx (b : Byte) (s : State) : (setDT b s).idx = s.idx := rfl
@[simp] theorem setDT_pc (b : Byte) (s : State) : (setDT b s).pc = s.pc := rfl
@[simp] theorem setDT_stack (b : Byte) (s : State) : (setDT b s).stack = s.stack := rfl
@[simp] theorem setDT_dt (b : Byte) (s : State) : (setDT b s).dt = b := rfl
@[simp] theorem setDT_st (b : Byte) (s : State) : (setDT b s).st = s.st := rfl
@[simp] theorem setDT_mode (b : Byte) (s : State) : (setDT b s).mode = s.mode := rfl
@[simp] theorem setDT_kreg (b : Byte) (s : State) : (setDT b s).kreg = s.kreg := rfl
@[simp] theorem setDT_fcause (b : Byte) (s : State) : (setDT b s).fcause = s.fcause := rfl
@[simp] theorem setDT_finfo (b : Byte) (s : State) : (setDT b s).finfo = s.finfo := rfl
@[simp] theorem setDT_mem (b : Byte) (s : State) : (setDT b s).mem = s.mem := rfl
@[simp] theorem setDT_disp (b : Byte) (s : State) : (setDT b s).disp = s.disp := rfl
@[simp] theorem setDT_slot (b : Byte) (s : State) : (setDT b s).slot = s.slot := rfl
@[simp] theorem setDT_now (b : Byte) (s : State) : (setDT b s).now = s.now := rfl
@[simp] theorem setDT_loadable (b : Byte) (s : State) : (setDT b s).loadable = s.loadable := rfl
@[simp] theorem setDT_reg (b : Byte) (s : State) (z : RegIx) : (setDT b s).reg z = s.reg z := rfl
@[simp] theorem setDT_byteAt (b : Byte) (s : State) (z : Nat) : (setDT b s).byteAt z = s.byteAt z := rfl
@[simp] theorem setDT_pixel (b : Byte) (s : State) (p : PixelX) (q : PixelY) : (setDT b s).pixel p q = s.pixel p q := rfl

/-! ### setST -/

@[simp] theorem setST_v (b : Byte) (s : State) : (setST b s).v = s.v := rfl
@[simp] theorem setST_idx (b : Byte) (s : State) : (setST b s).idx = s.idx := rfl
@[simp] theorem setST_pc (b : Byte) (s : State) : (setST b s).pc = s.pc := rfl
@[simp] theorem setST_stack (b : Byte) (s : State) : (setST b s).stack = s.stack := rfl
@[simp] theorem setST_dt (b : Byte) (s : State) : (setST b s).dt = s.dt := rfl
@[simp] theorem setST_st (b : Byte) (s : State) : (setST b s).st = b := rfl
@[simp] theorem setST_mode (b : Byte) (s : State) : (setST b s).mode = s.mode := rfl
@[simp] theorem setST_kreg (b : Byte) (s : State) : (setST b s).kreg = s.kreg := rfl
@[simp] theorem setST_fcause (b : Byte) (s : State) : (setST b s).fcause = s.fcause := rfl
@[simp] theorem setST_finfo (b : Byte) (s : State) : (setST b s).finfo = s.finfo := rfl
@[simp] theorem setST_mem (b : Byte) (s : State) : (setST b s).mem = s.mem := rfl
@[simp] theorem setST_disp (b : Byte) (s : State) : (setST b s).disp = s.disp := rfl
@[simp] theorem setST_slot (b : Byte) (s : State) : (setST b s).slot = s.slot := rfl
@[simp] theorem setST_now (b : Byte) (s : State) : (setST b s).now = s.now := rfl
@[simp] theorem setST_loadable (b : Byte) (s : State) : (setST b s).loadable = s.loadable := rfl
@[simp] theorem setST_reg (b : Byte) (s : State) (z : RegIx) : (setST b s).reg z = s.reg z := rfl
@[simp] theorem setST_byteAt (b : Byte) (s : State) (z : Nat) : (setST b s).byteAt z = s.byteAt z := rfl
@[simp] theorem setST_pixel (b : Byte) (s : State) (p : PixelX) (q : PixelY) : (setST b s).pixel p q = s.pixel p q := rfl

/-! ### awaitKey -/

@[simp] theorem awaitKey_v (x : RegIx) (s : State) : (awaitKey x s).v = s.v := rfl
@[simp] theorem awaitKey_idx (x : RegIx) (s : State) : (awaitKey x s).idx = s.idx := rfl
@[simp] theorem awaitKey_pc (x : RegIx) (s : State) : (awaitKey x s).pc = s.pc := rfl
@[simp] theorem awaitKey_stack (x : RegIx) (s : State) : (awaitKey x s).stack = s.stack := rfl
@[simp] theorem awaitKey_dt (x : RegIx) (s : State) : (awaitKey x s).dt = s.dt := rfl
@[simp] theorem awaitKey_st (x : RegIx) (s : State) : (awaitKey x s).st = s.st := rfl
@[simp] theorem awaitKey_mode (x : RegIx) (s : State) : (awaitKey x s).mode = .awaitingKey := rfl
@[simp] theorem awaitKey_kreg (x : RegIx) (s : State) : (awaitKey x s).kreg = x := rfl
@[simp] theorem awaitKey_fcause (x : RegIx) (s : State) : (awaitKey x s).fcause = s.fcause := rfl
@[simp] theorem awaitKey_finfo (x : RegIx) (s : State) : (awaitKey x s).finfo = s.finfo := rfl
@[simp] theorem awaitKey_mem (x : RegIx) (s : State) : (awaitKey x s).mem = s.mem := rfl
@[simp] theorem awaitKey_disp (x : RegIx) (s : State) : (awaitKey x s).disp = s.disp := rfl
@[simp] theorem awaitKey_slot (x : RegIx) (s : State) : (awaitKey x s).slot = s.slot := rfl
@[simp] theorem awaitKey_now (x : RegIx) (s : State) : (awaitKey x s).now = s.now := rfl
@[simp] theorem awaitKey_loadable (x : RegIx) (s : State) : (awaitKey x s).loadable = s.loadable := rfl
@[simp] theorem awaitKey_reg (x : RegIx) (s : State) (z : RegIx) : (awaitKey x s).reg z = s.reg z := rfl
@[simp] theorem awaitKey_byteAt (x : RegIx) (s : State) (z : Nat) : (awaitKey x s).byteAt z = s.byteAt z := rfl
@[simp] theorem awaitKey_pixel (x : RegIx) (s : State) (p : PixelX) (q : PixelY) : (awaitKey x s).pixel p q = s.pixel p q := rfl

/-! ### push -/

@[simp] theorem push_v (t : Word) (s : State) : (push t s).v = s.v := rfl
@[simp] theorem push_idx (t : Word) (s : State) : (push t s).idx = s.idx := rfl
@[simp] theorem push_pc (t : Word) (s : State) : (push t s).pc = s.pc := rfl
@[simp] theorem push_stack (t : Word) (s : State) : (push t s).stack = t :: s.stack := rfl
@[simp] theorem push_dt (t : Word) (s : State) : (push t s).dt = s.dt := rfl
@[simp] theorem push_st (t : Word) (s : State) : (push t s).st = s.st := rfl
@[simp] theorem push_mode (t : Word) (s : State) : (push t s).mode = s.mode := rfl
@[simp] theorem push_kreg (t : Word) (s : State) : (push t s).kreg = s.kreg := rfl
@[simp] theorem push_fcause (t : Word) (s : State) : (push t s).fcause = s.fcause := rfl
@[simp] theorem push_finfo (t : Word) (s : State) : (push t s).finfo = s.finfo := rfl
@[simp] theorem push_mem (t : Word) (s : State) : (push t s).mem = s.mem := rfl
@[simp] theorem push_disp (t : Word) (s : State) : (push t s).disp = s.disp := rfl
@[simp] theorem push_slot (t : Word) (s : State) : (push t s).slot = s.slot := rfl
@[simp] theorem push_now (t : Word) (s : State) : (push t s).now = s.now := rfl
@[simp] theorem push_loadable (t : Word) (s : State) : (push t s).loadable = s.loadable := rfl
@[simp] theorem push_reg (t : Word) (s : State) (z : RegIx) : (push t s).reg z = s.reg z := rfl
@[simp] theorem push_byteAt (t : Word) (s : State) (z : Nat) : (push t s).byteAt z = s.byteAt z := rfl
@[simp] theorem push_pixel (t : Word) (s : State) (p : PixelX) (q : PixelY) : (push t s).pixel p q = s.pixel p q := rfl

/-! ### popTo -/

@[simp] theorem popTo_v (t : Word) (r : List Word) (s : State) : (popTo t r s).v = s.v := rfl
@[simp] theorem popTo_idx (t : Word) (r : List Word) (s : State) : (popTo t r s).idx = s.idx := rfl
@[simp] theorem popTo_pc (t : Word) (r : List Word) (s : State) : (popTo t r s).pc = t := rfl
@[simp] theorem popTo_stack (t : Word) (r : List Word) (s : State) : (popTo t r s).stack = r := rfl
@[simp] theorem popTo_dt (t : Word) (r : List Word) (s : State) : (popTo t r s).dt = s.dt := rfl
@[simp] theorem popTo_st (t : Word) (r : List Word) (s : State) : (popTo t r s).st = s.st := rfl
@[simp] theorem popTo_mode (t : Word) (r : List Word) (s : State) : (popTo t r s).mode = s.mode := rfl
@[simp] theorem popTo_kreg (t : Word) (r : List Word) (s : State) : (popTo t r s).kreg = s.kreg := rfl
@[simp] theorem popTo_fcause (t : Word) (r : List Word) (s : State) : (popTo t r s).fcause = s.fcause := rfl
@[simp] theorem popTo_finfo (t : Word) (r : List Word) (s : State) : (popTo t r s).finfo = s.finfo := rfl
@[simp] theorem popTo_mem (t : Word) (r : List Word) (s : State) : (popTo t r s).mem = s.mem := rfl
@[simp] theorem popTo_disp (t : Word) (r : List Word) (s : State) : (popTo t r s).disp = s.disp := rfl
@[simp] theorem popTo_slot (t : Word) (r : List Word) (s : State) : (popTo t r s).slot = s.slot := rfl
@[simp] theorem popTo_now (t : Word) (r : List Word) (s : State) : (popTo t r s).now = s.now := rfl
@[simp] theorem popTo_loadable (t : Word) (r : List Word) (s : State) : (popTo t r s).loadable = s.loadable := rfl
@[simp] theorem popTo_reg (t : Word) (r : List Word) (s : State) (z : RegIx) : (popTo t r s).reg z = s.reg z := rfl
@[simp] theorem popTo_byteAt (t : Word) (r : List Word) (s : State) (z : Nat) : (popTo t r s).byteAt z = s.byteAt z := rfl
@[simp] theorem popTo_pixel (t : Word) (r : List Word) (s : State) (p : PixelX) (q : PixelY) : (popTo t r s).pixel p q = s.pixel p q := rfl

/-! ### dispToggle -/

@[simp] theorem dispToggle_v (px : PixelX) (py : PixelY) (s : State) : (dispToggle px py s).v = s.v := rfl
@[simp] theorem dispToggle_idx (px : PixelX) (py : PixelY) (s : State) : (dispToggle px py s).idx = s.idx := rfl
@[simp] theorem dispToggle_pc (px : PixelX) (py : PixelY) (s : State) : (dispToggle px py s).pc = s.pc := rfl
@[simp] theorem dispToggle_stack (px : PixelX) (py : PixelY) (s : State) : (dispToggle px py s).stack = s.stack := rfl
@[simp] theorem dispToggle_dt (px : PixelX) (py : PixelY) (s : State) : (dispToggle px py s).dt = s.dt := rfl
@[simp] theorem dispToggle_st (px : PixelX) (py : PixelY) (s : State) : (dispToggle px py s).st = s.st := rfl
@[simp] theorem dispToggle_mode (px : PixelX) (py : PixelY) (s : State) : (dispToggle px py s).mode = s.mode := rfl
@[simp] theorem dispToggle_kreg (px : PixelX) (py : PixelY) (s : State) : (dispToggle px py s).kreg = s.kreg := rfl
@[simp] theorem dispToggle_fcause (px : PixelX) (py : PixelY) (s : State) : (dispToggle px py s).fcause = s.fcause := rfl
@[simp] theorem dispToggle_finfo (px : PixelX) (py : PixelY) (s : State) : (dispToggle px py s).finfo = s.finfo := rfl
@[simp] theorem dispToggle_mem (px : PixelX) (py : PixelY) (s : State) : (dispToggle px py s).mem = s.mem := rfl
@[simp] theorem dispToggle_disp (px : PixelX) (py : PixelY) (s : State) : (dispToggle px py s).disp = s.disp.set py.val ((s.disp[py.val]'py.isLt) ^^^ BitVec.twoPow 64 px.val) py.isLt := rfl
@[simp] theorem dispToggle_slot (px : PixelX) (py : PixelY) (s : State) : (dispToggle px py s).slot = s.slot := rfl
@[simp] theorem dispToggle_now (px : PixelX) (py : PixelY) (s : State) : (dispToggle px py s).now = s.now := rfl
@[simp] theorem dispToggle_loadable (px : PixelX) (py : PixelY) (s : State) : (dispToggle px py s).loadable = s.loadable := rfl
@[simp] theorem dispToggle_reg (px : PixelX) (py : PixelY) (s : State) (z : RegIx) : (dispToggle px py s).reg z = s.reg z := rfl
@[simp] theorem dispToggle_byteAt (px : PixelX) (py : PixelY) (s : State) (z : Nat) : (dispToggle px py s).byteAt z = s.byteAt z := rfl

/-! ### dispClear -/

@[simp] theorem dispClear_v (s : State) : (dispClear s).v = s.v := rfl
@[simp] theorem dispClear_idx (s : State) : (dispClear s).idx = s.idx := rfl
@[simp] theorem dispClear_pc (s : State) : (dispClear s).pc = s.pc := rfl
@[simp] theorem dispClear_stack (s : State) : (dispClear s).stack = s.stack := rfl
@[simp] theorem dispClear_dt (s : State) : (dispClear s).dt = s.dt := rfl
@[simp] theorem dispClear_st (s : State) : (dispClear s).st = s.st := rfl
@[simp] theorem dispClear_mode (s : State) : (dispClear s).mode = s.mode := rfl
@[simp] theorem dispClear_kreg (s : State) : (dispClear s).kreg = s.kreg := rfl
@[simp] theorem dispClear_fcause (s : State) : (dispClear s).fcause = s.fcause := rfl
@[simp] theorem dispClear_finfo (s : State) : (dispClear s).finfo = s.finfo := rfl
@[simp] theorem dispClear_mem (s : State) : (dispClear s).mem = s.mem := rfl
@[simp] theorem dispClear_disp (s : State) : (dispClear s).disp = Vector.replicate 32 0 := rfl
@[simp] theorem dispClear_slot (s : State) : (dispClear s).slot = s.slot := rfl
@[simp] theorem dispClear_now (s : State) : (dispClear s).now = s.now := rfl
@[simp] theorem dispClear_loadable (s : State) : (dispClear s).loadable = s.loadable := rfl
@[simp] theorem dispClear_reg (s : State) (z : RegIx) : (dispClear s).reg z = s.reg z := rfl
@[simp] theorem dispClear_byteAt (s : State) (z : Nat) : (dispClear s).byteAt z = s.byteAt z := rfl

/-! ### putBytes -/

@[simp] theorem putBytes_v (a : Nat) (bs : List Byte) (s : State) : (putBytes a bs s).v = s.v := rfl
@[simp] theorem putBytes_idx (a : Nat) (bs : List Byte) (s : State) : (putBytes a bs s).idx = s.idx := rfl
@[simp] theorem putBytes_pc (a : Nat) (bs : List Byte) (s : State) : (putBytes a bs s).pc = s.pc := rfl
@[simp] theorem putBytes_stack (a : Nat) (bs : List Byte) (s : State) : (putBytes a bs s).stack = s.stack := rfl
@[simp] theorem putBytes_dt (a : Nat) (bs : List Byte) (s : State) : (putBytes a bs s).dt = s.dt := rfl
@[simp] theorem putBytes_st (a : Nat) (bs : List Byte) (s : State) : (putBytes a bs s).st = s.st := rfl
@[simp] theorem putBytes_mode (a : Nat) (bs : List Byte) (s : State) : (putBytes a bs s).mode = s.mode := rfl
@[simp] theorem putBytes_kreg (a : Nat) (bs : List Byte) (s : State) : (putBytes a bs s).kreg = s.kreg := rfl
@[simp] theorem putBytes_fcause (a : Nat) (bs : List Byte) (s : State) : (putBytes a bs s).fcause = s.fcause := rfl
@[simp] theorem putBytes_finfo (a : Nat) (bs : List Byte) (s : State) : (putBytes a bs s).finfo = s.finfo := rfl
@[simp] theorem putBytes_mem (a : Nat) (bs : List Byte) (s : State) : (putBytes a bs s).mem = Memory.putAll s.mem a bs := rfl
@[simp] theorem putBytes_disp (a : Nat) (bs : List Byte) (s : State) : (putBytes a bs s).disp = s.disp := rfl
@[simp] theorem putBytes_slot (a : Nat) (bs : List Byte) (s : State) : (putBytes a bs s).slot = s.slot := rfl
@[simp] theorem putBytes_now (a : Nat) (bs : List Byte) (s : State) : (putBytes a bs s).now = s.now := rfl
@[simp] theorem putBytes_loadable (a : Nat) (bs : List Byte) (s : State) : (putBytes a bs s).loadable = s.loadable := rfl
@[simp] theorem putBytes_reg (a : Nat) (bs : List Byte) (s : State) (z : RegIx) : (putBytes a bs s).reg z = s.reg z := rfl
@[simp] theorem putBytes_pixel (a : Nat) (bs : List Byte) (s : State) (p : PixelX) (q : PixelY) : (putBytes a bs s).pixel p q = s.pixel p q := rfl

/-! ### setBlock -/

@[simp] theorem setBlock_v (bs : List Byte) (s : State) : (setBlock bs s).v = Vector.ofFn (fun k : RegIx => bs.getD k.val (s.reg k)) := rfl
@[simp] theorem setBlock_idx (bs : List Byte) (s : State) : (setBlock bs s).idx = s.idx := rfl
@[simp] theorem setBlock_pc (bs : List Byte) (s : State) : (setBlock bs s).pc = s.pc := rfl
@[simp] theorem setBlock_stack (bs : List Byte) (s : State) : (setBlock bs s).stack = s.stack := rfl
@[simp] theorem setBlock_dt (bs : List Byte) (s : State) : (setBlock bs s).dt = s.dt := rfl
@[simp] theorem setBlock_st (bs : List Byte) (s : State) : (setBlock bs s).st = s.st := rfl
@[simp] theorem setBlock_mode (bs : List Byte) (s : State) : (setBlock bs s).mode = s.mode := rfl
@[simp] theorem setBlock_kreg (bs : List Byte) (s : State) : (setBlock bs s).kreg = s.kreg := rfl
@[simp] theorem setBlock_fcause (bs : List Byte) (s : State) : (setBlock bs s).fcause = s.fcause := rfl
@[simp] theorem setBlock_finfo (bs : List Byte) (s : State) : (setBlock bs s).finfo = s.finfo := rfl
@[simp] theorem setBlock_mem (bs : List Byte) (s : State) : (setBlock bs s).mem = s.mem := rfl
@[simp] theorem setBlock_disp (bs : List Byte) (s : State) : (setBlock bs s).disp = s.disp := rfl
@[simp] theorem setBlock_slot (bs : List Byte) (s : State) : (setBlock bs s).slot = s.slot := rfl
@[simp] theorem setBlock_now (bs : List Byte) (s : State) : (setBlock bs s).now = s.now := rfl
@[simp] theorem setBlock_loadable (bs : List Byte) (s : State) : (setBlock bs s).loadable = s.loadable := rfl
@[simp] theorem setBlock_byteAt (bs : List Byte) (s : State) (z : Nat) : (setBlock bs s).byteAt z = s.byteAt z := rfl
@[simp] theorem setBlock_pixel (bs : List Byte) (s : State) (p : PixelX) (q : PixelY) : (setBlock bs s).pixel p q = s.pixel p q := rfl

/-! ### raise -/

@[simp] theorem raise_v (f : Fault) (w : Word) (s : State) : (raise f w s).v = s.v := rfl
@[simp] theorem raise_idx (f : Fault) (w : Word) (s : State) : (raise f w s).idx = s.idx := rfl
@[simp] theorem raise_pc (f : Fault) (w : Word) (s : State) : (raise f w s).pc = s.pc := rfl
@[simp] theorem raise_stack (f : Fault) (w : Word) (s : State) : (raise f w s).stack = s.stack := rfl
@[simp] theorem raise_dt (f : Fault) (w : Word) (s : State) : (raise f w s).dt = s.dt := rfl
@[simp] theorem raise_st (f : Fault) (w : Word) (s : State) : (raise f w s).st = s.st := rfl
@[simp] theorem raise_mode (f : Fault) (w : Word) (s : State) : (raise f w s).mode = .halted := rfl
@[simp] theorem raise_kreg (f : Fault) (w : Word) (s : State) : (raise f w s).kreg = s.kreg := rfl
@[simp] theorem raise_fcause (f : Fault) (w : Word) (s : State) : (raise f w s).fcause = faultCode f := rfl
@[simp] theorem raise_finfo (f : Fault) (w : Word) (s : State) : (raise f w s).finfo = w := rfl
@[simp] theorem raise_mem (f : Fault) (w : Word) (s : State) : (raise f w s).mem = s.mem := rfl
@[simp] theorem raise_disp (f : Fault) (w : Word) (s : State) : (raise f w s).disp = s.disp := rfl
@[simp] theorem raise_slot (f : Fault) (w : Word) (s : State) : (raise f w s).slot = s.slot := rfl
@[simp] theorem raise_now (f : Fault) (w : Word) (s : State) : (raise f w s).now = s.now := rfl
@[simp] theorem raise_loadable (f : Fault) (w : Word) (s : State) : (raise f w s).loadable = s.loadable := rfl
@[simp] theorem raise_reg (f : Fault) (w : Word) (s : State) (z : RegIx) : (raise f w s).reg z = s.reg z := rfl
@[simp] theorem raise_byteAt (f : Fault) (w : Word) (s : State) (z : Nat) : (raise f w s).byteAt z = s.byteAt z := rfl
@[simp] theorem raise_pixel (f : Fault) (w : Word) (s : State) (p : PixelX) (q : PixelY) : (raise f w s).pixel p q = s.pixel p q := rfl

/-! ### closeLoad -/

@[simp] theorem closeLoad_v (s : State) : (closeLoad s).v = s.v := rfl
@[simp] theorem closeLoad_idx (s : State) : (closeLoad s).idx = s.idx := rfl
@[simp] theorem closeLoad_pc (s : State) : (closeLoad s).pc = s.pc := rfl
@[simp] theorem closeLoad_stack (s : State) : (closeLoad s).stack = s.stack := rfl
@[simp] theorem closeLoad_dt (s : State) : (closeLoad s).dt = s.dt := rfl
@[simp] theorem closeLoad_st (s : State) : (closeLoad s).st = s.st := rfl
@[simp] theorem closeLoad_mode (s : State) : (closeLoad s).mode = s.mode := rfl
@[simp] theorem closeLoad_kreg (s : State) : (closeLoad s).kreg = s.kreg := rfl
@[simp] theorem closeLoad_fcause (s : State) : (closeLoad s).fcause = s.fcause := rfl
@[simp] theorem closeLoad_finfo (s : State) : (closeLoad s).finfo = s.finfo := rfl
@[simp] theorem closeLoad_mem (s : State) : (closeLoad s).mem = s.mem := rfl
@[simp] theorem closeLoad_disp (s : State) : (closeLoad s).disp = s.disp := rfl
@[simp] theorem closeLoad_slot (s : State) : (closeLoad s).slot = s.slot := rfl
@[simp] theorem closeLoad_now (s : State) : (closeLoad s).now = s.now := rfl
@[simp] theorem closeLoad_loadable (s : State) : (closeLoad s).loadable = false := rfl
@[simp] theorem closeLoad_reg (s : State) (z : RegIx) : (closeLoad s).reg z = s.reg z := rfl
@[simp] theorem closeLoad_byteAt (s : State) (z : Nat) : (closeLoad s).byteAt z = s.byteAt z := rfl
@[simp] theorem closeLoad_pixel (s : State) (p : PixelX) (q : PixelY) : (closeLoad s).pixel p q = s.pixel p q := rfl

/-! ### tick -/

@[simp] theorem tick_v (s : State) : (tick s).v = s.v := rfl
@[simp] theorem tick_idx (s : State) : (tick s).idx = s.idx := rfl
@[simp] theorem tick_pc (s : State) : (tick s).pc = s.pc := rfl
@[simp] theorem tick_stack (s : State) : (tick s).stack = s.stack := rfl
@[simp] theorem tick_dt (s : State) : (tick s).dt = countDown s.dt := rfl
@[simp] theorem tick_st (s : State) : (tick s).st = countDown s.st := rfl
@[simp] theorem tick_mode (s : State) : (tick s).mode = s.mode := rfl
@[simp] theorem tick_kreg (s : State) : (tick s).kreg = s.kreg := rfl
@[simp] theorem tick_fcause (s : State) : (tick s).fcause = s.fcause := rfl
@[simp] theorem tick_finfo (s : State) : (tick s).finfo = s.finfo := rfl
@[simp] theorem tick_mem (s : State) : (tick s).mem = s.mem := rfl
@[simp] theorem tick_disp (s : State) : (tick s).disp = s.disp := rfl
@[simp] theorem tick_slot (s : State) : (tick s).slot = s.slot := rfl
@[simp] theorem tick_now (s : State) : (tick s).now = s.now := rfl
@[simp] theorem tick_loadable (s : State) : (tick s).loadable = s.loadable := rfl
@[simp] theorem tick_reg (s : State) (z : RegIx) : (tick s).reg z = s.reg z := rfl
@[simp] theorem tick_byteAt (s : State) (z : Nat) : (tick s).byteAt z = s.byteAt z := rfl
@[simp] theorem tick_pixel (s : State) (p : PixelX) (q : PixelY) : (tick s).pixel p q = s.pixel p q := rfl

/-! ### deliverKey -/

@[simp] theorem deliverKey_v (k : RegIx) (s : State) : (deliverKey k s).v = s.v.set s.kreg.val (BitVec.ofNat 8 k.val) s.kreg.isLt := rfl
@[simp] theorem deliverKey_idx (k : RegIx) (s : State) : (deliverKey k s).idx = s.idx := rfl
@[simp] theorem deliverKey_pc (k : RegIx) (s : State) : (deliverKey k s).pc = s.pc := rfl
@[simp] theorem deliverKey_stack (k : RegIx) (s : State) : (deliverKey k s).stack = s.stack := rfl
@[simp] theorem deliverKey_dt (k : RegIx) (s : State) : (deliverKey k s).dt = s.dt := rfl
@[simp] theorem deliverKey_st (k : RegIx) (s : State) : (deliverKey k s).st = s.st := rfl
@[simp] theorem deliverKey_mode (k : RegIx) (s : State) : (deliverKey k s).mode = .running := rfl
@[simp] theorem deliverKey_kreg (k : RegIx) (s : State) : (deliverKey k s).kreg = s.kreg := rfl
@[simp] theorem deliverKey_fcause (k : RegIx) (s : State) : (deliverKey k s).fcause = s.fcause := rfl
@[simp] theorem deliverKey_finfo (k : RegIx) (s : State) : (deliverKey k s).finfo = s.finfo := rfl
@[simp] theorem deliverKey_mem (k : RegIx) (s : State) : (deliverKey k s).mem = s.mem := rfl
@[simp] theorem deliverKey_disp (k : RegIx) (s : State) : (deliverKey k s).disp = s.disp := rfl
@[simp] theorem deliverKey_slot (k : RegIx) (s : State) : (deliverKey k s).slot = s.slot := rfl
@[simp] theorem deliverKey_now (k : RegIx) (s : State) : (deliverKey k s).now = s.now := rfl
@[simp] theorem deliverKey_loadable (k : RegIx) (s : State) : (deliverKey k s).loadable = s.loadable := rfl
@[simp] theorem deliverKey_byteAt (k : RegIx) (s : State) (z : Nat) : (deliverKey k s).byteAt z = s.byteAt z := rfl
@[simp] theorem deliverKey_pixel (k : RegIx) (s : State) (p : PixelX) (q : PixelY) : (deliverKey k s).pixel p q = s.pixel p q := rfl

/-! ### afterCycle -/

@[simp] theorem afterCycle_v (s : State) : (afterCycle s).v = s.v := rfl
@[simp] theorem afterCycle_idx (s : State) : (afterCycle s).idx = s.idx := rfl
@[simp] theorem afterCycle_pc (s : State) : (afterCycle s).pc = s.pc := rfl
@[simp] theorem afterCycle_stack (s : State) : (afterCycle s).stack = s.stack := rfl
@[simp] theorem afterCycle_dt (s : State) : (afterCycle s).dt = s.dt := rfl
@[simp] theorem afterCycle_st (s : State) : (afterCycle s).st = s.st := rfl
@[simp] theorem afterCycle_mode (s : State) : (afterCycle s).mode = s.mode := rfl
@[simp] theorem afterCycle_kreg (s : State) : (afterCycle s).kreg = s.kreg := rfl
@[simp] theorem afterCycle_fcause (s : State) : (afterCycle s).fcause = s.fcause := rfl
@[simp] theorem afterCycle_finfo (s : State) : (afterCycle s).finfo = s.finfo := rfl
@[simp] theorem afterCycle_mem (s : State) : (afterCycle s).mem = s.mem := rfl
@[simp] theorem afterCycle_disp (s : State) : (afterCycle s).disp = s.disp := rfl
@[simp] theorem afterCycle_slot (s : State) : (afterCycle s).slot = s.slot := rfl
@[simp] theorem afterCycle_now (s : State) : (afterCycle s).now = s.now + 1 := rfl
@[simp] theorem afterCycle_loadable (s : State) : (afterCycle s).loadable = false := rfl
@[simp] theorem afterCycle_reg (s : State) (z : RegIx) : (afterCycle s).reg z = s.reg z := rfl
@[simp] theorem afterCycle_byteAt (s : State) (z : Nat) : (afterCycle s).byteAt z = s.byteAt z := rfl
@[simp] theorem afterCycle_pixel (s : State) (p : PixelX) (q : PixelY) : (afterCycle s).pixel p q = s.pixel p q := rfl

end Sys2Proof.Machine
end

