-- ==== Sys2Proof/Laws/Memory.lean ====
section
/-! SUPPORT. Memory: read after write, other addresses unchanged, the canonical form kept (20_memory.md R56 to
R61); the laws of one byte and of consecutive bytes. -/

namespace Sys2Proof.Machine

/-- An address below every listed one reads as `Reset` left it. -/
theorem byteAt_eq_resetByte_of_lt {m : Memory} {a : Nat} (h : ∀ c ∈ m, a < c.1) :
    Memory.byteAt m a = resetByte a := by
  induction m with
  | nil => rfl
  | cons c rest ih =>
    obtain ⟨b, v⟩ := c
    have hb : a < b := h (b, v) (by simp)
    simp only [Memory.byteAt, Nat.ne_of_lt hb, if_false]
    exact ih fun c hc => h c (by simp [hc])

/-- A store leaves every other address as it was. -/
theorem byteAt_put_ne (m : Memory) {a c : Nat} (v : Byte) (h : c ≠ a) :
    Memory.byteAt (Memory.put m a v) c = Memory.byteAt m c := by
  induction m with
  | nil =>
    simp only [Memory.put]
    split <;> simp [Memory.byteAt, h]
  | cons d rest ih =>
    obtain ⟨b, u⟩ := d
    simp only [Memory.put]
    split
    · split <;> simp [Memory.byteAt, h]
    · split
      · subst_vars
        split <;> simp [Memory.byteAt, h]
      · simp [Memory.byteAt, ih]

/-- A read after a store to the same address gives the value stored. -/
theorem byteAt_put_self {m : Memory} (hm : m.Pairwise fun c d => c.1 < d.1) (a : Nat) (v : Byte) :
    Memory.byteAt (Memory.put m a v) a = v := by
  induction m with
  | nil =>
    simp only [Memory.put]
    split <;> simp_all [Memory.byteAt]
  | cons d rest ih =>
    obtain ⟨b, u⟩ := d
    obtain ⟨hb, hrest⟩ := List.pairwise_cons.1 hm
    simp only [Memory.put]
    split
    · next hlt =>
      split
      · next hv =>
        rw [hv]
        refine byteAt_eq_resetByte_of_lt fun c hc => ?_
        rcases List.mem_cons.1 hc with rfl | hc
        · exact hlt
        · exact Nat.lt_trans hlt (hb c hc)
      · simp [Memory.byteAt]
    · split
      · next heq =>
        split
        · next hv =>
          rw [hv, heq]
          exact byteAt_eq_resetByte_of_lt hb
        · simp [Memory.byteAt]
      · next hne => simpa [Memory.byteAt, hne] using ih hrest

/-- What a store lists: entries that were there, and the one stored, never one equal to the reset byte. -/
theorem mem_put {m : Memory} {a : Nat} {v : Byte} {c : Host.Cell} (h : c ∈ Memory.put m a v) :
    c ∈ m ∨ (c = (a, v) ∧ v ≠ resetByte a) := by
  induction m with
  | nil =>
    simp only [Memory.put] at h
    split at h <;> simp_all
  | cons d rest ih =>
    obtain ⟨b, u⟩ := d
    simp only [Memory.put] at h
    split at h
    · split at h
      · exact .inl h
      · next hv =>
        rcases List.mem_cons.1 h with rfl | h
        · exact .inr ⟨rfl, hv⟩
        · exact .inl h
    · split at h
      · split at h
        · exact .inl (by simp [h])
        · next hv =>
          rcases List.mem_cons.1 h with rfl | h
          · exact .inr ⟨rfl, hv⟩
          · exact .inl (by simp [h])
      · rcases List.mem_cons.1 h with rfl | h
        · exact .inl (by simp)
        · rcases ih h with h | h
          · exact .inl (by simp [h])
          · exact .inr h

/-- A store keeps the addresses strictly rising. -/
theorem put_rising {m : Memory} (hm : m.Pairwise fun c d => c.1 < d.1) (a : Nat) (v : Byte) :
    (Memory.put m a v).Pairwise fun c d => c.1 < d.1 := by
  induction m with
  | nil =>
    simp only [Memory.put]
    split <;> simp
  | cons d rest ih =>
    obtain ⟨b, u⟩ := d
    obtain ⟨hb, hrest⟩ := List.pairwise_cons.1 hm
    simp only [Memory.put]
    split
    · next hlt =>
      split
      · exact hm
      · refine List.pairwise_cons.2 ⟨fun c hc => ?_, hm⟩
        rcases List.mem_cons.1 hc with rfl | hc
        · exact hlt
        · exact Nat.lt_trans hlt (hb c hc)
    · next hge =>
      split
      · next heq =>
        split
        · exact hrest
        · exact List.pairwise_cons.2 ⟨fun c hc => heq ▸ hb c hc, hrest⟩
      · next hne =>
        refine List.pairwise_cons.2 ⟨fun c hc => ?_, ih hrest⟩
        rcases mem_put hc with hc | ⟨rfl, -⟩
        · exact hb c hc
        · simp only at hge hne ⊢; omega

/-- A store inside the address space keeps the canonical form. -/
theorem put_wf {m : Memory} (hm : Memory.wf m) {a : Nat} (ha : a ≤ Config.memTop) (v : Byte) :
    Memory.wf (Memory.put m a v) := by
  refine ⟨put_rising hm.1 a v, fun c hc => ?_⟩
  rcases mem_put hc with hc | ⟨rfl, hv⟩
  · exact hm.2 c hc
  · exact ⟨ha, hv⟩

/-- Storing consecutive bytes leaves every address outside them as it was. -/
theorem byteAt_putAll_outside (m : Memory) {a c : Nat} (bs : List Byte) (h : c < a ∨ a + bs.length ≤ c) :
    Memory.byteAt (Memory.putAll m a bs) c = Memory.byteAt m c := by
  induction bs generalizing m a with
  | nil => rfl
  | cons b bs ih =>
    simp only [List.length_cons] at h
    simp only [Memory.putAll]
    rw [ih _ (by omega), byteAt_put_ne _ _ (by omega)]

/-- Storing consecutive bytes keeps the addresses strictly rising. -/
theorem putAll_rising {m : Memory} (hm : m.Pairwise fun c d => c.1 < d.1) (a : Nat) (bs : List Byte) :
    (Memory.putAll m a bs).Pairwise fun c d => c.1 < d.1 := by
  induction bs generalizing m a with
  | nil => exact hm
  | cons b bs ih => exact ih (put_rising hm a b) (a + 1)

/-- After storing consecutive bytes, the byte at offset `k` is the `k`-th. -/
theorem byteAt_putAll_inside {m : Memory} (hm : m.Pairwise fun c d => c.1 < d.1) (a : Nat) (bs : List Byte)
    {k : Nat} (hk : k < bs.length) : Memory.byteAt (Memory.putAll m a bs) (a + k) = bs[k] := by
  induction bs generalizing m a k with
  | nil => simp at hk
  | cons b bs ih =>
    simp only [Memory.putAll]
    cases k with
    | zero =>
      exact (byteAt_putAll_outside _ bs (.inl (by omega))).trans (byteAt_put_self hm a b)
    | succ k =>
      have := ih (put_rising hm a b) (a + 1) (k := k) (by simpa using hk)
      rw [show a + (k + 1) = a + 1 + k by omega, this]
      rfl

/-- Storing consecutive bytes inside the address space keeps the canonical form. -/
theorem putAll_wf {m : Memory} (hm : Memory.wf m) {a : Nat} (bs : List Byte)
    (ha : a + bs.length ≤ Config.memSize) : Memory.wf (Memory.putAll m a bs) := by
  induction bs generalizing m a with
  | nil => exact hm
  | cons b bs ih =>
    simp only [List.length_cons, Config.memSize] at ha
    exact ih (put_wf hm (by simp only [Config.memTop]; omega) b) (by simp only [Config.memSize]; omega)

/-- The reset memory has the canonical form. -/
theorem reset_memory_wf : Memory.wf State.reset.mem := by decide

/-- `putBytes` in terms of a state's bytes: the stored ones. -/
theorem byteAt_putBytes_inside {s : State} (hm : Memory.wf s.mem) (a : Nat) (bs : List Byte) {k : Nat}
    (hk : k < bs.length) : (putBytes a bs s).byteAt (a + k) = bs[k] :=
  byteAt_putAll_inside hm.1 a bs hk

/-- `putBytes` in terms of a state's bytes: every other one. -/
theorem byteAt_putBytes_outside (s : State) {a c : Nat} (bs : List Byte) (h : c < a ∨ a + bs.length ≤ c) :
    (putBytes a bs s).byteAt c = s.byteAt c :=
  byteAt_putAll_outside s.mem bs h

end Sys2Proof.Machine
end

