-- ==== Sys2Proof/Laws/Ops.lean ====
section
/-! SUPPORT. One lemma per shared operation that says what it does: registers, blocks, address checks, the
stack, the display toggle, the frame of a sprite draw, and how a checked instruction ends. -/

namespace Sys2Proof.Machine

/-! ### Registers -/

@[simp] theorem reg_setV_self (x : RegIx) (b : Byte) (s : State) : (setV x b s).reg x = b := by
  simp [State.reg]

theorem reg_setV_ne {x z : RegIx} (b : Byte) (s : State) (h : z ≠ x) : (setV x b s).reg z = s.reg z := by
  have : x.val ≠ z.val := fun e => h (Fin.ext e.symm)
  simp [State.reg, this]

/-- A register write, as a function of the register read. -/
theorem reg_setV (x z : RegIx) (b : Byte) (s : State) :
    (setV x b s).reg z = if z = x then b else s.reg z := by
  split
  · next h => rw [h, reg_setV_self]
  · next h => exact reg_setV_ne b s h

/-- Flag and result: the result in `V[x]`, the flag in `VF` unless `x` is `VF`, other registers unchanged. -/
theorem reg_setFlagThenResult (x z : RegIx) (flag result : Byte) (s : State) :
    (setFlagThenResult x flag result s).reg z =
      if z = x then result else if z = vf then flag else s.reg z := by
  simp only [setFlagThenResult, reg_setV]

/-- A block load: the loaded registers hold the bytes, the others keep theirs. -/
@[simp] theorem reg_setBlock (bs : List Byte) (s : State) (z : RegIx) :
    (setBlock bs s).reg z = bs.getD z.val (s.reg z) := by
  simp [State.reg, Vector.getElem_ofFn]

/-- The latched block `V[0..x]` has `x + 1` bytes. -/
@[simp] theorem length_regBlock (x : RegIx) (s : State) : (regBlock x s).length = x.val + 1 := by
  have := x.isLt
  simp only [regBlock, List.length_take, Vector.length_toList]
  omega

/-- Byte `k` of the latched block is `V[k]`. -/
theorem getElem_regBlock {x z : RegIx} (s : State) (h : z.val ≤ x.val) :
    (regBlock x s)[z.val]'(by rw [length_regBlock]; omega) = s.reg z := by
  simp [regBlock, State.reg]

@[simp] theorem length_memBlock (a n : Nat) (s : State) : (memBlock a n s).length = n := by
  simp [memBlock]

/-- Byte `k` of a block read from memory. -/
@[simp] theorem getElem_memBlock (a n : Nat) (s : State) {k : Nat} (h : k < (memBlock a n s).length) :
    (memBlock a n s)[k] = s.byteAt (a + k) := by
  simp [memBlock]

@[simp] theorem length_bcdDigits (b : Byte) : (bcdDigits b).length = 3 := rfl

/-! ### Address checks (R56, R58, R179) -/

/-- A run of reads passes its checks iff it is empty or ends inside memory. -/
theorem firstFault_read_none {a n : Nat} : firstFault readFault a n = none ↔ n = 0 ∨ a + n ≤ 4096 := by
  simp only [firstFault, List.findSome?_eq_none_iff, List.mem_range, readFault, Config.memTop]
  constructor
  · intro h
    by_contra hc
    have := h (n - 1) (by omega)
    rw [if_pos (by omega)] at this
    simp at this
  · intro h k hk
    rw [if_neg (by omega)]

/-- A run of reads can only fail with `DataAddressFault`. -/
theorem firstFault_read_some {a n : Nat} {f : Fault} (h : firstFault readFault a n = some f) :
    f = .dataAddressFault ∧ 0 < n ∧ 4096 < a + n := by
  have hne : ¬ (n = 0 ∨ a + n ≤ 4096) := fun hc => by simp [firstFault_read_none.2 hc] at h
  obtain ⟨k, -, hk⟩ := List.exists_of_findSome?_eq_some h
  simp only [readFault] at hk
  split at hk
  · exact ⟨by simpa using hk.symm, by omega, by omega⟩
  · simp at hk

/-- A run of writes passes its checks iff it is empty or lies in 0x200-0xFFF. -/
theorem firstFault_write_none {a n : Nat} :
    firstFault writeFault a n = none ↔ n = 0 ∨ (0x200 ≤ a ∧ a + n ≤ 4096) := by
  simp only [firstFault, List.findSome?_eq_none_iff, List.mem_range, writeFault, Config.memTop,
    Config.reservedTop]
  constructor
  · intro h
    by_contra hc
    have h0 := h 0 (by omega)
    have h1 := h (n - 1) (by omega)
    split at h0
    · simp at h0
    · split at h0
      · simp at h0
      · split at h1
        · simp at h1
        · omega
  · intro h k hk
    rw [if_neg (by omega), if_neg (by omega)]

/-- The first write decides: a run that starts in the reserved region reports `ReservedWriteFault`. -/
theorem firstFault_write_reserved {a n : Nat} (hn : 0 < n) (ha : a ≤ 0x1FF) :
    firstFault writeFault a n = some .reservedWriteFault := by
  obtain ⟨m, rfl⟩ : ∃ m, n = m + 1 := ⟨n - 1, by omega⟩
  have h0 : writeFault (a + 0) = some .reservedWriteFault := by
    simp only [writeFault, Config.memTop, Config.reservedTop, Nat.add_zero]
    rw [if_neg (by omega), if_pos (by omega)]
  simp only [firstFault, List.range_succ_eq_map, List.findSome?_cons, h0]

/-- A run of writes that starts above the reserved region and runs past memory reports `DataAddressFault`. -/
theorem firstFault_write_data {a n : Nat} (ha : 0x1FF < a) (hn : 0 < n) (hend : 4096 < a + n) :
    firstFault writeFault a n = some .dataAddressFault := by
  rcases hf : firstFault writeFault a n with _ | f
  · rcases firstFault_write_none.1 hf with h | h <;> omega
  · obtain ⟨k, -, hk⟩ := List.exists_of_findSome?_eq_some hf
    simp only [writeFault, Config.memTop, Config.reservedTop] at hk
    split at hk
    · rw [← hk]
    · rw [if_neg (by omega)] at hk
      simp at hk

/-! ### Stack (R28) -/

/-- The stack is full exactly when it holds `STACK_DEPTH` entries. -/
theorem stackFull_iff (s : State) : stackFull s = true ↔ Config.stackDepth = some s.stack.length := by
  unfold stackFull Config.stackDepth
  cases hs : s.stack with
  | nil => cases Config.stackDepthLessOne <;> simp
  | cons t rest => cases Config.stackDepthLessOne <;> simp

/-! ### Display (R33) -/

/-- The toggle inverts its pixel and leaves every other one. -/
theorem pixel_dispToggle (px p : PixelX) (py q : PixelY) (s : State) :
    (dispToggle px py s).pixel p q = if p = px ∧ q = py then !s.pixel p q else s.pixel p q := by
  by_cases hq : q = py
  · subst hq
    by_cases hpx : p = px
    · subst hpx
      simp [State.pixel]
    · have : p.val ≠ px.val := fun e => hpx (Fin.ext e)
      simp [State.pixel, hpx, this]
  · have : py.val ≠ q.val := fun e => hq (Fin.ext e.symm)
    simp [State.pixel, hq, this]

/-- Clearing turns every pixel off. -/
@[simp] theorem pixel_dispClear (s : State) (p : PixelX) (q : PixelY) : (dispClear s).pixel p q = false := by
  simp [State.pixel]

/-! ### Sprite draws: what they leave alone -/

/-- `t` differs from `s` at most in `VF` and the display. -/
def DrawFrame (s t : State) : Prop :=
  (∀ z, z ≠ vf → t.reg z = s.reg z) ∧ t = { s with v := t.v, disp := t.disp }

theorem DrawFrame.refl (s : State) : DrawFrame s s := ⟨fun _ _ => rfl, rfl⟩

theorem DrawFrame.trans {s t u : State} (h : DrawFrame s t) (k : DrawFrame t u) : DrawFrame s u := by
  refine ⟨fun z hz => (k.1 z hz).trans (h.1 z hz), ?_⟩
  rw [k.2, h.2]

theorem drawFrame_setV (b : Byte) (s : State) : DrawFrame s (setV vf b s) :=
  ⟨fun _ hz => reg_setV_ne b s hz, rfl⟩

theorem drawFrame_dispToggle (px : PixelX) (py : PixelY) (s : State) : DrawFrame s (dispToggle px py s) :=
  ⟨fun _ _ => rfl, rfl⟩

theorem drawFrame_drawPixel (xv yv b : Byte) (r : Nat) (s : State) (c : Nat) :
    DrawFrame s (drawPixel xv yv b r s c) := by
  unfold drawPixel
  split
  · split
    · exact (drawFrame_dispToggle _ _ s).trans (drawFrame_setV 1 _)
    · exact drawFrame_dispToggle _ _ s
  · exact .refl s

/-- A fold of steps that each keep the frame keeps it. -/
theorem drawFrame_foldl {f : State → Nat → State} (hf : ∀ s k, DrawFrame s (f s k)) (l : List Nat) (s : State) :
    DrawFrame s (l.foldl f s) := by
  induction l generalizing s with
  | nil => exact .refl s
  | cons k l ih => exact (hf s k).trans (ih _)

theorem drawFrame_drawRow (xv yv : Byte) (a : Nat) (s : State) (r : Nat) :
    DrawFrame s (drawRow xv yv a s r) :=
  drawFrame_foldl (fun s c => drawFrame_drawPixel xv yv _ r s c) _ s

/-- A sprite draw changes `VF` and the display only. -/
theorem drawFrame_drawSprite (xv yv : Byte) (a n : Nat) (s : State) :
    DrawFrame s (drawSprite xv yv a n s) :=
  (drawFrame_setV 0 s).trans (drawFrame_foldl (fun s r => drawFrame_drawRow xv yv a s r) _ _)

/-! ### How an instruction ends -/

/-- A checked instruction answers a next state: the fault entry of the first failing check, or its effect. -/
theorem settle_next {f : Option Fault} {i : Instr} {s t u : State} (h : settle f i s t = .next u) :
    (∃ e, f = some e ∧ u = raise e (encode i) s) ∨ (f = none ∧ u = t) := by
  cases f with
  | none => exact .inr ⟨rfl, by simpa [settle] using h.symm⟩
  | some e => exact .inl ⟨e, rfl, by simpa [settle] using h.symm⟩

@[simp] theorem settle_none (i : Instr) (s t : State) : settle none i s t = .next t := rfl

@[simp] theorem settle_some (f : Fault) (i : Instr) (s t : State) :
    settle (some f) i s t = .next (raise f (encode i) s) := rfl

@[simp] theorem thenApply_next (t : State) (f : State → State) : thenApply (.next t) f = .next (f t) := rfl

/-- No fault has the code 0 of "no fault" (R201). -/
theorem faultCode_ne_zero (f : Fault) : faultCode f ≠ 0 := by cases f <;> decide

end Sys2Proof.Machine
end

