-- ==== Sys2Proof/Laws/Events.lean ====
section
/-! SUPPORT. What a step and a move of the host can do, each said once; what the frame bookkeeping leaves alone. -/

namespace Sys2Proof.Machine

/-! ### Cycle and step -/

/-- A fetch and execution that answers a state: the fault of the fetch, that of the decode, or the decoded
instruction. -/
theorem fetchAndExec_cases {s u : State} (h : fetchAndExec s = .next u) :
    (fetch s = none ∧ u = raise .fetchAddressFault s.pc s) ∨
    (∃ w r, fetch s = some w ∧ decodeWord w = .illegal r ∧ u = raise .illegalInstruction w s) ∨
    (∃ w i, fetch s = some w ∧ decodeWord w = .instr i ∧ exec i s = .next u) := by
  unfold fetchAndExec at h
  split at h
  · next hf => exact .inl ⟨hf, by simpa using h.symm⟩
  · next w hf =>
    unfold decodeAndExec at h
    split at h
    · next r hd => exact .inr (.inl ⟨w, r, hf, hd, by simpa using h.symm⟩)
    · next i hd => exact .inr (.inr ⟨w, i, hf, hd, h⟩)

/-- A step of a running machine is one fetch and execution with the bookkeeping after it. -/
theorem step_running {s t : State} (hs : s.mode = .running) (h : step s = .next t) :
    ∃ u, fetchAndExec s = .next u ∧ t = closeSlot (afterCycle u) := by
  simp only [step, hs, runningStep, cycle] at h
  cases hf : fetchAndExec s with
  | next u => exact ⟨u, rfl, by simpa [hf] using h.symm⟩
  | fault r => simp [hf, thenApply] at h
  | refused r => simp [hf, thenApply] at h

/-! ### The frame bookkeeping -/

/-- Closing a slot changes the timers and the slot, nothing else. -/
theorem closeSlot_eq (s : State) :
    closeSlot s = { s with dt := (closeSlot s).dt, st := (closeSlot s).st, slot := (closeSlot s).slot } := by
  unfold closeSlot
  split <;> rfl

@[simp] theorem closeSlot_mode (s : State) : (closeSlot s).mode = s.mode := by rw [closeSlot_eq]
@[simp] theorem closeSlot_v (s : State) : (closeSlot s).v = s.v := by rw [closeSlot_eq]
@[simp] theorem closeSlot_idx (s : State) : (closeSlot s).idx = s.idx := by rw [closeSlot_eq]
@[simp] theorem closeSlot_pc (s : State) : (closeSlot s).pc = s.pc := by rw [closeSlot_eq]
@[simp] theorem closeSlot_stack (s : State) : (closeSlot s).stack = s.stack := by rw [closeSlot_eq]
@[simp] theorem closeSlot_kreg (s : State) : (closeSlot s).kreg = s.kreg := by rw [closeSlot_eq]
@[simp] theorem closeSlot_fcause (s : State) : (closeSlot s).fcause = s.fcause := by rw [closeSlot_eq]
@[simp] theorem closeSlot_finfo (s : State) : (closeSlot s).finfo = s.finfo := by rw [closeSlot_eq]
@[simp] theorem closeSlot_mem (s : State) : (closeSlot s).mem = s.mem := by rw [closeSlot_eq]
@[simp] theorem closeSlot_disp (s : State) : (closeSlot s).disp = s.disp := by rw [closeSlot_eq]
@[simp] theorem closeSlot_now (s : State) : (closeSlot s).now = s.now := by rw [closeSlot_eq]
@[simp] theorem closeSlot_loadable (s : State) : (closeSlot s).loadable = s.loadable := by rw [closeSlot_eq]

/-! ### Moves of the host -/

/-- An outcome with a change applied answers a state only from a state. -/
theorem thenApply_eq_next {o : Host.Outcome State Fault Refusal} {f : State → State} {t : State}
    (h : thenApply o f = .next t) : ∃ u, o = .next u ∧ t = f u := by
  cases o with
  | next u => exact ⟨u, rfl, by simpa using h.symm⟩
  | fault r => simp [thenApply] at h
  | refused r => simp [thenApply] at h

/-- A `Load` that has a meaning comes directly after `Reset`, fits, and changes memory only. -/
theorem loadImage_next {image : List Byte} {s t : State} (h : loadImage image s = .next t) :
    s.loadable = true ∧ s.mode = .running ∧ image.length ≤ Config.maxImage ∧
      t = closeLoad (putBytes Config.progBase image s) := by
  unfold loadImage at h
  split at h
  · next hl =>
    split at h
    · next hi => exact ⟨hl.1, hl.2, hi, by simpa using h.symm⟩
    · simp at h
  · simp at h

/-- A move of the host that has a meaning: `Reset`, or between frames a `Load`, a `Frame` or a `KeyDown`, after
which no `Load` may come. -/
theorem hostMove_next {e : HostMove} {s t : State} (h : hostMove e s = .next t) :
    (e = .reset ∧ t = hostReset s) ∨
    (s.slot = 0 ∧ ∃ image, e = .load image ∧ loadImage image s = .next t) ∨
    (s.slot = 0 ∧ e = .frame ∧ ∃ u, frame s = .next u ∧ t = closeLoad u) ∨
    (s.slot = 0 ∧ ∃ k, e = .keyDown k ∧ ∃ u, keyDown k s = .next u ∧ t = closeLoad u) := by
  cases e with
  | reset => exact .inl ⟨rfl, by simpa [hostMove] using h.symm⟩
  | load image =>
    simp only [hostMove] at h
    split at h
    · next h0 => exact .inr (.inl ⟨h0, image, rfl, h⟩)
    · simp at h
  | frame =>
    simp only [hostMove] at h
    split at h
    · next h0 => exact .inr (.inr (.inl ⟨h0, rfl, thenApply_eq_next h⟩))
    · simp at h
  | keyDown k =>
    simp only [hostMove] at h
    split at h
    · next h0 => exact .inr (.inr (.inr ⟨h0, k, rfl, thenApply_eq_next h⟩))
    · simp at h

end Sys2Proof.Machine
end

