-- ==== Sys2Proof/Laws/PerInstr.lean ====
section
/-! SUPPORT. The family EncodeSelectsRow: the word of a well-formed instruction selects the instruction's own row
of the opcode map (30_encoding.md R78, R86), one lemma per constructor. -/

namespace Sys2Proof.Laws

/-- Bits 15-12 of a zero-extended 12-bit immediate are 0. -/
theorem immAddr_inside (nnn : Addr12) : nnn.setWidth 16 &&& (0xF000 : Word) = 0 := by
  apply BitVec.eq_of_getLsbD_eq
  intro i hi
  interval_cases i <;> simp

/-- A register number in bits 11-8 and an immediate byte stay below bit 12. -/
theorem regImm_inside (x : RegIx) (kk : Byte) : (placeX x ||| kk.setWidth 16) &&& (0xF000 : Word) = 0 := by
  have hx : ∀ x : RegIx, placeX x &&& (0xF000 : Word) = 0 := by decide
  have hk : kk.setWidth 16 &&& (0xF000 : Word) = 0 := by
    apply BitVec.eq_of_getLsbD_eq
    intro i hi
    interval_cases i <;> simp
  rw [BitVec.and_comm, BitVec.and_or_distrib_left, BitVec.and_comm, hx, BitVec.and_comm, hk]
  rfl

/-- Two register numbers stay between bits 11 and 4. -/
theorem twoReg_inside : ∀ x y : RegIx, (placeX x ||| placeY y) &&& (0xF00F : Word) = 0 := by decide

theorem twoReg_inside_family : ∀ x y : RegIx, (placeX x ||| placeY y) &&& (0xF000 : Word) = 0 := by decide

/-- One register number stays between bits 11 and 8. -/
theorem oneReg_inside : ∀ x : RegIx, placeX x &&& (0xF0FF : Word) = 0 := by decide

theorem oneReg_inside_nibble : ∀ x : RegIx, placeX x &&& (0xF00F : Word) = 0 := by decide

/-- Two register numbers and a height up to 15 stay below bit 12. -/
theorem draw_inside (x y : RegIx) {n : Nat} (hn : n ≤ 15) :
    (placeX x ||| placeY y ||| BitVec.ofNat 16 n) &&& (0xF000 : Word) = 0 := by
  have hn' : ∀ n : Fin 16, BitVec.ofNat 16 n.val &&& (0xF000 : Word) = 0 := by decide
  rw [BitVec.and_comm, BitVec.and_or_distrib_left, BitVec.and_comm, twoReg_inside_family, BitVec.and_comm,
    hn' ⟨n, by omega⟩]
  rfl

/-- A word made of a row's pattern and operand bits outside its mask selects the row. -/
theorem selects_of_inside {r : OpcodeRow} {o : Word} (hp : r.pattern &&& r.mask = r.pattern)
    (ho : o &&& r.mask = 0) : r.selects (r.pattern ||| o) = true := by
  simp only [OpcodeRow.selects, beq_iff_eq]
  rw [BitVec.and_comm, BitVec.and_or_distrib_left, BitVec.and_comm, hp, BitVec.and_comm, ho]
  simp

/-- The pattern of a row has no bit outside the row's mask. -/
theorem pattern_inside (i : Instr) : (opcodeRow i).pattern &&& (opcodeRow i).mask = (opcodeRow i).pattern := by
  cases i <;> simp only [opcodeRow] <;> decide

namespace EncodeSelectsRow

/-- The word of a well-formed instruction selects the instruction's row. -/
def Statement (i : Instr) : Prop := i.wf = true → (opcodeRow i).selects (encode i) = true

theorem cls : Statement (.cls) := fun _ => selects_of_inside (pattern_inside _) (by decide)
theorem ret : Statement (.ret) := fun _ => selects_of_inside (pattern_inside _) (by decide)
theorem jp (nnn : Addr12) : Statement (.jp nnn) := fun _ => selects_of_inside (pattern_inside _) (immAddr_inside nnn)
theorem call (nnn : Addr12) : Statement (.call nnn) := fun _ => selects_of_inside (pattern_inside _) (immAddr_inside nnn)
theorem seImm (x : RegIx) (kk : Byte) : Statement (.seImm x kk) := fun _ => selects_of_inside (pattern_inside _) (regImm_inside x kk)
theorem sneImm (x : RegIx) (kk : Byte) : Statement (.sneImm x kk) := fun _ => selects_of_inside (pattern_inside _) (regImm_inside x kk)
theorem seReg (x y : RegIx) : Statement (.seReg x y) := fun _ => selects_of_inside (pattern_inside _) (twoReg_inside_family x y)
theorem ldImm (x : RegIx) (kk : Byte) : Statement (.ldImm x kk) := fun _ => selects_of_inside (pattern_inside _) (regImm_inside x kk)
theorem addImm (x : RegIx) (kk : Byte) : Statement (.addImm x kk) := fun _ => selects_of_inside (pattern_inside _) (regImm_inside x kk)
theorem ldReg (x y : RegIx) : Statement (.ldReg x y) := fun _ => selects_of_inside (pattern_inside _) (twoReg_inside x y)
theorem orReg (x y : RegIx) : Statement (.orReg x y) := fun _ => selects_of_inside (pattern_inside _) (twoReg_inside x y)
theorem andReg (x y : RegIx) : Statement (.andReg x y) := fun _ => selects_of_inside (pattern_inside _) (twoReg_inside x y)
theorem xorReg (x y : RegIx) : Statement (.xorReg x y) := fun _ => selects_of_inside (pattern_inside _) (twoReg_inside x y)
theorem addReg (x y : RegIx) : Statement (.addReg x y) := fun _ => selects_of_inside (pattern_inside _) (twoReg_inside x y)
theorem sub (x y : RegIx) : Statement (.sub x y) := fun _ => selects_of_inside (pattern_inside _) (twoReg_inside x y)
theorem shr (x : RegIx) : Statement (.shr x) := fun _ => selects_of_inside (pattern_inside _) (oneReg_inside_nibble x)
theorem subn (x y : RegIx) : Statement (.subn x y) := fun _ => selects_of_inside (pattern_inside _) (twoReg_inside x y)
theorem shl (x : RegIx) : Statement (.shl x) := fun _ => selects_of_inside (pattern_inside _) (oneReg_inside_nibble x)
theorem sneReg (x y : RegIx) : Statement (.sneReg x y) := fun _ => selects_of_inside (pattern_inside _) (twoReg_inside_family x y)
theorem ldI (nnn : Addr12) : Statement (.ldI nnn) := fun _ => selects_of_inside (pattern_inside _) (immAddr_inside nnn)
theorem jpV0 (nnn : Addr12) : Statement (.jpV0 nnn) := fun _ => selects_of_inside (pattern_inside _) (immAddr_inside nnn)
theorem rnd (x : RegIx) (kk : Byte) : Statement (.rnd x kk) := fun _ => selects_of_inside (pattern_inside _) (regImm_inside x kk)
theorem drw (x y : RegIx) (n : Nat) : Statement (.drw x y n) := fun h =>
  selects_of_inside (pattern_inside (.drw x y n)) (draw_inside x y (by simpa [Instr.wf] using h))
theorem skp (x : RegIx) : Statement (.skp x) := fun _ => selects_of_inside (pattern_inside _) (oneReg_inside x)
theorem sknp (x : RegIx) : Statement (.sknp x) := fun _ => selects_of_inside (pattern_inside _) (oneReg_inside x)
theorem ldFromDT (x : RegIx) : Statement (.ldFromDT x) := fun _ => selects_of_inside (pattern_inside _) (oneReg_inside x)
theorem ldKey (x : RegIx) : Statement (.ldKey x) := fun _ => selects_of_inside (pattern_inside _) (oneReg_inside x)
theorem ldToDT (x : RegIx) : Statement (.ldToDT x) := fun _ => selects_of_inside (pattern_inside _) (oneReg_inside x)
theorem ldToST (x : RegIx) : Statement (.ldToST x) := fun _ => selects_of_inside (pattern_inside _) (oneReg_inside x)
theorem addI (x : RegIx) : Statement (.addI x) := fun _ => selects_of_inside (pattern_inside _) (oneReg_inside x)
theorem ldFont (x : RegIx) : Statement (.ldFont x) := fun _ => selects_of_inside (pattern_inside _) (oneReg_inside x)
theorem ldBcd (x : RegIx) : Statement (.ldBcd x) := fun _ => selects_of_inside (pattern_inside _) (oneReg_inside x)
theorem store (x : RegIx) : Statement (.store x) := fun _ => selects_of_inside (pattern_inside _) (oneReg_inside x)
theorem load (x : RegIx) : Statement (.load x) := fun _ => selects_of_inside (pattern_inside _) (oneReg_inside x)

end EncodeSelectsRow

end Sys2Proof.Laws
end

