-- ==== Sys2Proof/Tests/Slice0.lean ====
section
/-! SUPPORT. Tests: decoding of words written out from the formats, single steps with results from
95_test_vectors.md, and for every obligation with hypotheses a witness that meets them. -/

namespace Sys2Proof.Tests

open Sys2Proof Sys2Proof.Machine

/-! ### Helpers -/

/-- The reset machine with a word at 0x200, the vectors' start state. -/
def boot (w : Word) : State := State.reset.withFetchWord 16 w.toNat

/-- As `boot`, with `pc` and the word at another address. -/
def bootAt (a w : Word) : State := (setPc a State.reset).withFetchWord 16 w.toNat

/-- The state a step answers. -/
def got (s : State) : State :=
  match step s with
  | .next t => t
  | .fault _ => s
  | .refused _ => s

/-- The state an instruction answers. -/
def after (i : Instr) (s : State) : State :=
  match exec i s with
  | .next t => t
  | .fault _ => s
  | .refused _ => s

/-- A few registers set: (number, value) pairs. -/
def withRegs (ps : List (RegIx × Byte)) (s : State) : State := ps.foldl (fun t p => setV p.1 p.2 t) s

/-- The vectors' fault line: halted with cause and information, everything else as the cycle began. -/
def haltedAs (cause : BitVec 3) (info : Word) (s : State) : State :=
  { s with mode := .halted, fcause := cause, finfo := info, now := s.now + 1, loadable := false }

/-! ### Well-formedness: the one check refuses an ill-formed term -/

/-- R72: the height of `Dxyn` is a 4-bit field, so 16 is no height. -/
theorem test_wf_refuses_height_16 : (Instr.drw 0 0 16).wf = false ∧ (Instr.drw 0 0 15).wf = true := by decide

/-! ### Decoding, a word for every constructor -/

/-- `00E0`, written bit by bit from its format (R71, R78). -/
theorem test_decode_cls : decodeWord 0b0000_0000_1110_0000 = .instr (.cls) := by decide

/-- `00EE`, written bit by bit from its format (R71, R78). -/
theorem test_decode_ret : decodeWord 0b0000_0000_1110_1110 = .instr (.ret) := by decide

/-- `1ABC`, written bit by bit from its format (R71, R78). -/
theorem test_decode_jp : decodeWord 0b0001_1010_1011_1100 = .instr (.jp 0xABC) := by decide

/-- `2300`, written bit by bit from its format (R71, R78). -/
theorem test_decode_call : decodeWord 0b0010_0011_0000_0000 = .instr (.call 0x300) := by decide

/-- `332A`, written bit by bit from its format (R71, R78). -/
theorem test_decode_seImm : decodeWord 0b0011_0011_0010_1010 = .instr (.seImm 3 0x2A) := by decide

/-- `4FFF`, written bit by bit from its format (R71, R78). -/
theorem test_decode_sneImm : decodeWord 0b0100_1111_1111_1111 = .instr (.sneImm 15 0xFF) := by decide

/-- `5AB7`, written bit by bit from its format (R71, R78). -/
theorem test_decode_seReg : decodeWord 0b0101_1010_1011_0111 = .instr (.seReg 10 11) := by decide

/-- `600A`, written bit by bit from its format (R71, R78). -/
theorem test_decode_ldImm : decodeWord 0b0110_0000_0000_1010 = .instr (.ldImm 0 0x0A) := by decide

/-- `7005`, written bit by bit from its format (R71, R78). -/
theorem test_decode_addImm : decodeWord 0b0111_0000_0000_0101 = .instr (.addImm 0 0x05) := by decide

/-- `8120`, written bit by bit from its format (R71, R78). -/
theorem test_decode_ldReg : decodeWord 0b1000_0001_0010_0000 = .instr (.ldReg 1 2) := by decide

/-- `8121`, written bit by bit from its format (R71, R78). -/
theorem test_decode_orReg : decodeWord 0b1000_0001_0010_0001 = .instr (.orReg 1 2) := by decide

/-- `8122`, written bit by bit from its format (R71, R78). -/
theorem test_decode_andReg : decodeWord 0b1000_0001_0010_0010 = .instr (.andReg 1 2) := by decide

/-- `8123`, written bit by bit from its format (R71, R78). -/
theorem test_decode_xorReg : decodeWord 0b1000_0001_0010_0011 = .instr (.xorReg 1 2) := by decide

/-- `8374`, written bit by bit from its format (R71, R78). -/
theorem test_decode_addReg : decodeWord 0b1000_0011_0111_0100 = .instr (.addReg 3 7) := by decide

/-- `8125`, written bit by bit from its format (R71, R78). -/
theorem test_decode_sub : decodeWord 0b1000_0001_0010_0101 = .instr (.sub 1 2) := by decide

/-- `8AF6`, written bit by bit from its format (R71, R78). -/
theorem test_decode_shr : decodeWord 0b1000_1010_1111_0110 = .instr (.shr 10) := by decide

/-- `8127`, written bit by bit from its format (R71, R78). -/
theorem test_decode_subn : decodeWord 0b1000_0001_0010_0111 = .instr (.subn 1 2) := by decide

/-- `8A5E`, written bit by bit from its format (R71, R78). -/
theorem test_decode_shl : decodeWord 0b1000_1010_0101_1110 = .instr (.shl 10) := by decide

/-- `9ABF`, written bit by bit from its format (R71, R78). -/
theorem test_decode_sneReg : decodeWord 0b1001_1010_1011_1111 = .instr (.sneReg 10 11) := by decide

/-- `A300`, written bit by bit from its format (R71, R78). -/
theorem test_decode_ldI : decodeWord 0b1010_0011_0000_0000 = .instr (.ldI 0x300) := by decide

/-- `BFFF`, written bit by bit from its format (R71, R78). -/
theorem test_decode_jpV0 : decodeWord 0b1011_1111_1111_1111 = .instr (.jpV0 0xFFF) := by decide

/-- `C10F`, written bit by bit from its format (R71, R78). -/
theorem test_decode_rnd : decodeWord 0b1100_0001_0000_1111 = .instr (.rnd 1 0x0F) := by decide

/-- `D125`, written bit by bit from its format (R71, R78). -/
theorem test_decode_drw : decodeWord 0b1101_0001_0010_0101 = .instr (.drw 1 2 5) := by decide

/-- `EF9E`, written bit by bit from its format (R71, R78). -/
theorem test_decode_skp : decodeWord 0b1110_1111_1001_1110 = .instr (.skp 15) := by decide

/-- `E0A1`, written bit by bit from its format (R71, R78). -/
theorem test_decode_sknp : decodeWord 0b1110_0000_1010_0001 = .instr (.sknp 0) := by decide

/-- `F207`, written bit by bit from its format (R71, R78). -/
theorem test_decode_ldFromDT : decodeWord 0b1111_0010_0000_0111 = .instr (.ldFromDT 2) := by decide

/-- `F30A`, written bit by bit from its format (R71, R78). -/
theorem test_decode_ldKey : decodeWord 0b1111_0011_0000_1010 = .instr (.ldKey 3) := by decide

/-- `F015`, written bit by bit from its format (R71, R78). -/
theorem test_decode_ldToDT : decodeWord 0b1111_0000_0001_0101 = .instr (.ldToDT 0) := by decide

/-- `F118`, written bit by bit from its format (R71, R78). -/
theorem test_decode_ldToST : decodeWord 0b1111_0001_0001_1000 = .instr (.ldToST 1) := by decide

/-- `F01E`, written bit by bit from its format (R71, R78). -/
theorem test_decode_addI : decodeWord 0b1111_0000_0001_1110 = .instr (.addI 0) := by decide

/-- `FA29`, written bit by bit from its format (R71, R78). -/
theorem test_decode_ldFont : decodeWord 0b1111_1010_0010_1001 = .instr (.ldFont 10) := by decide

/-- `F933`, written bit by bit from its format (R71, R78). -/
theorem test_decode_ldBcd : decodeWord 0b1111_1001_0011_0011 = .instr (.ldBcd 9) := by decide

/-- `F255`, written bit by bit from its format (R71, R78). -/
theorem test_decode_store : decodeWord 0b1111_0010_0101_0101 = .instr (.store 2) := by decide

/-- `FF65`, written bit by bit from its format (R71, R78). -/
theorem test_decode_load : decodeWord 0b1111_1111_0110_0101 = .instr (.load 15) := by decide

/-- V-N3, V-N4, V-N7, V-N11, V-N13: illegal words at the borders of the legal ones. -/
theorem test_decode_illegal :
    ([0x0000, 0x00E1, 0x00EF, 0x00ED, 0x0FFF, 0x01E0] : List Word).all
      (fun w => decodeWord w == .illegal .family0) = true ∧
    ([0x8AB8, 0x8ABD, 0x8ABF] : List Word).all (fun w => decodeWord w == .illegal .family8) = true ∧
    ([0xE000, 0xE09D, 0xE19F, 0xE1A0, 0xE1A2, 0xE1FF] : List Word).all
      (fun w => decodeWord w == .illegal .familyE) = true ∧
    ([0xF000, 0xF030, 0xF03A, 0xF075, 0xF154, 0xF166] : List Word).all
      (fun w => decodeWord w == .illegal .familyF) = true := by decide

/-- R54, R57: the byte at the lower address is the high one; the host's table word is laid out the same way. -/
theorem test_decode_byte_order : decodeBytes [0x83, 0x74, 0x00] = (.instr (.addReg 3 7), [0x00]) ∧
    decodeTableWord 16 0x8374 = some (.addReg 3 7) ∧ decodeTableWord 16 0x8378 = none := by decide

/-- R86: the ignored fields are emitted as 0. -/
theorem test_encode_ignored_fields : encode (.seReg 10 11) = 0x5AB0 ∧ encode (.shr 10) = 0x8A06 := by decide

/-! ### Families 0 to 7 (vectors V-X5, V-A1 to V-A21) -/

/-- V-X5. -/
theorem test_cls : let t := got { withRegs [(15, 7)] (boot 0x00E0) with disp := State.reset.disp.set 1 0b10 }
    t.pc = 0x202 ∧ t.disp = State.reset.disp ∧ t.reg 15 = 7 := by decide

/-- V-A1. -/
theorem test_ret : let t := got { bootAt 0x300 0x00EE with stack := [0x202] }
    t.pc = 0x202 ∧ t.stack = [] := by decide

/-- V-A2. -/
theorem test_ret_underflow : got (bootAt 0x300 0x00EE) = haltedAs 2 0x00EE (bootAt 0x300 0x00EE) := by decide

/-- V-A3. -/
theorem test_jp : (got (boot 0x1ABC)).pc = 0xABC := by decide

/-- V-A5, V-A7: the pushed value is `pc + 2` in 16 bits. -/
theorem test_call : (got (boot 0x2300)).stack = [0x202] ∧ (got (boot 0x2300)).pc = 0x300 ∧
    (got (bootAt 0xFFE 0x2300)).stack = [0x1000] := by decide

/-- V-A8, V-A9, V-A19. -/
theorem test_seImm : (got (withRegs [(3, 0x2A)] (boot 0x332A))).pc = 0x204 ∧
    (got (withRegs [(3, 0x2A)] (boot 0x332B))).pc = 0x202 ∧ (got (bootAt 0xFFE 0x3000)).pc = 0x1002 := by decide

/-- V-A10, V-A11. -/
theorem test_sneImm : (got (withRegs [(3, 0x2A)] (boot 0x432A))).pc = 0x202 ∧
    (got (withRegs [(3, 0x2A)] (boot 0x432B))).pc = 0x204 := by decide

/-- V-A13, V-A14. -/
theorem test_seReg : (got (withRegs [(1, 5), (2, 5)] (boot 0x512F))).pc = 0x204 ∧
    (got (withRegs [(1, 5), (2, 6)] (boot 0x5120))).pc = 0x202 := by decide

/-- V-A15, V-A20: `VF` is an ordinary destination, an odd `pc` is legal. -/
theorem test_ldImm : (got (boot 0x6FAB)).reg 15 = 0xAB ∧ (got (bootAt 0x201 0x6A11)).pc = 0x203 ∧
    (got (bootAt 0x201 0x6A11)).reg 10 = 0x11 := by decide

/-- V-A17, V-A18. -/
theorem test_addImm : let t := got (withRegs [(1, 5), (15, 9)] (boot 0x71FF))
    t.reg 1 = 4 ∧ t.reg 15 = 9 ∧ (got (withRegs [(15, 0xFF)] (boot 0x7F02))).reg 15 = 1 := by decide

/-! ### Family 8 (vectors V-B1 to V-B32) -/

/-- V-B1. -/
theorem test_ldReg : let t := got (withRegs [(1, 1), (2, 0x7E), (15, 9)] (boot 0x8120))
    t.reg 1 = 0x7E ∧ t.reg 2 = 0x7E ∧ t.reg 15 = 9 := by decide

/-- V-B2. -/
theorem test_orReg : let t := got (withRegs [(1, 0xF0), (2, 0x0F), (15, 9)] (boot 0x8121))
    t.reg 1 = 0xFF ∧ t.reg 15 = 9 := by decide

/-- V-B3. -/
theorem test_andReg : let t := got (withRegs [(1, 0xF3), (2, 0x3C), (15, 9)] (boot 0x8122))
    t.reg 1 = 0x30 ∧ t.reg 15 = 9 := by decide

/-- V-B4. -/
theorem test_xorReg : let t := got (withRegs [(1, 0xFF), (2, 0x0F), (15, 9)] (boot 0x8123))
    t.reg 1 = 0xF0 ∧ t.reg 15 = 9 := by decide

/-- V-B5, V-B7: a carry, and a sum of exactly 255. -/
theorem test_addReg : let t := got (withRegs [(1, 0xC8), (2, 0x64)] (boot 0x8124))
    let u := got (withRegs [(1, 0x80), (2, 0x7F), (15, 1)] (boot 0x8124))
    t.reg 1 = 0x2C ∧ t.reg 15 = 1 ∧ u.reg 1 = 0xFF ∧ u.reg 15 = 0 := by decide

/-- V-B24, V-B25: `VF` as destination, `VF` as source. -/
theorem test_addReg_vf : let u := got (withRegs [(1, 0xFF), (15, 1)] (boot 0x81F4))
    (got (withRegs [(15, 0xC8), (2, 0x64)] (boot 0x8F24))).reg 15 = 0x2C ∧ u.reg 1 = 0 ∧ u.reg 15 = 1 := by decide

/-- V-B9, V-B11: a negative difference, and equal operands. -/
theorem test_sub : let t := got (withRegs [(1, 0x0A), (2, 0x0F), (15, 1)] (boot 0x8125))
    let u := got (withRegs [(1, 7), (2, 7), (15, 1)] (boot 0x8125))
    t.reg 1 = 0xFB ∧ t.reg 15 = 0 ∧ u.reg 1 = 0 ∧ u.reg 15 = 0 := by decide

/-- V-B29, V-B30: `VF` as destination, `VF` as source. -/
theorem test_sub_vf : let u := got (withRegs [(1, 5), (15, 3)] (boot 0x81F5))
    (got (withRegs [(15, 0x10), (2, 0x20)] (boot 0x8F25))).reg 15 = 0xF0 ∧ u.reg 1 = 2 ∧ u.reg 15 = 1 := by decide

/-- V-B14, V-B16: `y` is ignored, the shift is logical. -/
theorem test_shr : let t := got (withRegs [(1, 5), (15, 0x44)] (boot 0x81F6))
    t.reg 1 = 2 ∧ t.reg 15 = 1 ∧ (got (withRegs [(1, 0xFF)] (boot 0x8106))).reg 1 = 0x7F := by decide

/-- V-B17, V-B18. -/
theorem test_subn : let t := got (withRegs [(1, 0x0A), (2, 0x0F)] (boot 0x8127))
    let u := got (withRegs [(1, 0x0F), (2, 0x0A), (15, 1)] (boot 0x8127))
    t.reg 1 = 5 ∧ t.reg 15 = 1 ∧ u.reg 1 = 0xFB ∧ u.reg 15 = 0 := by decide

/-- V-B20, V-B22: the flag is 0x80, not 1. -/
theorem test_shl : let t := got (withRegs [(1, 0x81)] (boot 0x810E))
    let u := got (withRegs [(1, 0x7F), (15, 1)] (boot 0x810E))
    t.reg 1 = 2 ∧ t.reg 15 = 0x80 ∧ u.reg 1 = 0xFE ∧ u.reg 15 = 0 := by decide

/-! ### Families 9 to C (vectors V-C1 to V-C10) -/

/-- V-C2, V-C3. -/
theorem test_sneReg : (got (withRegs [(1, 5), (2, 5)] (boot 0x9120))).pc = 0x202 ∧
    (got (withRegs [(1, 5), (2, 6)] (boot 0x912B))).pc = 0x204 := by decide

/-- V-C4. -/
theorem test_ldI : (got (boot 0xAFFF)).idx = 0xFFF ∧ (got (boot 0xAFFF)).pc = 0x202 := by decide

/-- V-C5, V-C6: no reduction to 12 bits. -/
theorem test_jpV0 : (got (withRegs [(0, 4)] (boot 0xB300))).pc = 0x304 ∧
    (got (withRegs [(0, 0xFF)] (boot 0xBFFF))).pc = 0x10FE := by decide

/-- V-C8: mask 00 gives 00 whatever the random byte. -/
theorem test_rnd : (after (.rnd 1 0x00) (withRegs [(1, 0xFF)] State.reset)).reg 1 = 0 := by
  simp [after, exec, execRnd]

/-! ### Family D (vectors V-D1 to V-D14) -/

/-- V-D1, V-D2: drawn once, drawn again. -/
theorem test_drw : let s := putBytes 0x300 [0x80] (setI 0x300 (boot 0xD011))
    let u := got { s with disp := State.reset.disp.set 0 1 }
    (got s).disp = State.reset.disp.set 0 1 ∧ (got s).reg 15 = 0 ∧ u.disp = State.reset.disp ∧ u.reg 15 = 1 := by
  decide

/-- V-D12: both axes wrap, the start coordinates too. -/
theorem test_drw_wrap :
    let t := got (putBytes 0x300 [0x81] (withRegs [(0, 0xFF), (1, 0xFF)] (setI 0x300 (boot 0xD011))))
    t.disp = State.reset.disp.set 31 0x8000000000000040 ∧ t.reg 15 = 0 := by decide

/-! ### Family E (vectors V-E1 to V-E6) -/

/-- V-E5; and V-E1, V-E2 through the level of one key. -/
theorem test_skp : (got (withRegs [(1, 0x15)] (boot 0xE19E))).pc = 0x202 ∧
    keyPressed 0x0020 5 = true ∧ keyPressed 0xFFDF 5 = false := by decide

/-- V-E6. -/
theorem test_sknp : (got (withRegs [(1, 0x15)] (boot 0xE1A1))).pc = 0x204 := by decide

/-! ### Family F (vectors V-F1 to V-F27) -/

/-- V-F1. -/
theorem test_ldFromDT : let t := after (.ldFromDT 2) (setDT 0x3C State.reset)
    t.reg 2 = 0x3C ∧ t.dt = 0x3C ∧ t.pc = 0x202 := by decide

/-- V-F2: the wait keeps `V3`; the key that comes writes it. -/
theorem test_ldKey : let t := got (withRegs [(3, 0x55)] (bootAt 0x210 0xF30A))
    t.pc = 0x212 ∧ t.mode = .awaitingKey ∧ t.kreg = 3 ∧ t.reg 3 = 0x55 ∧
    (deliverKey 0xB t).reg 3 = 0x0B ∧ (deliverKey 0xB t).mode = .running ∧ (deliverKey 0xB t).pc = 0x212 := by decide

/-- V-F3. -/
theorem test_ldToDT : (after (.ldToDT 0) (withRegs [(0, 3)] State.reset)).dt = 3 := by decide

/-- V-F4. -/
theorem test_ldToST : let t := after (.ldToST 0) (withRegs [(0, 2)] State.reset)
    t.st = 2 ∧ tone t = true ∧ tone State.reset = false := by decide

/-- V-F6, V-F7. -/
theorem test_addI : let t := got (setI 0x0FFF (withRegs [(0, 1), (15, 7)] (boot 0xF01E)))
    t.idx = 0x1000 ∧ t.reg 15 = 7 ∧ (got (setI 0xFFFF (withRegs [(0, 1)] (boot 0xF01E)))).idx = 0 := by decide

/-- V-F8, V-F9: not masked to the low nibble. -/
theorem test_ldFont : (got (withRegs [(0, 0x0A)] (boot 0xF029))).idx = 0x32 ∧
    (got (withRegs [(0, 0xFF)] (boot 0xF029))).idx = 0x4FB := by decide

/-- V-F11a, V-F14: three digits, and at the top of memory. -/
theorem test_ldBcd : let t := got (setI 0x300 (withRegs [(0, 0x9C)] (boot 0xF033)))
    let u := got (setI 0xFFD (withRegs [(0, 0x9C)] (boot 0xF033)))
    memBlock 0x300 4 t = [1, 5, 6, 0] ∧ memBlock 0xFFD 3 u = [1, 5, 6] := by decide

/-- V-F12, V-F13: nothing is written, not even the bytes that could be. -/
theorem test_ldBcd_faults : let s := withRegs [(0, 0x9C)] (boot 0xF033)
    got (setI 0x1FF s) = haltedAs 6 0xF033 (setI 0x1FF s) ∧
    got (setI 0xFFE s) = haltedAs 5 0xF033 (setI 0xFFE s) := by decide

/-- V-F15. -/
theorem test_store : let t := got (setI 0x301 (withRegs [(0, 1), (1, 5), (2, 6), (3, 9)] (boot 0xF255)))
    memBlock 0x300 5 t = [0, 1, 5, 6, 0] ∧ t.idx = 0x301 := by decide

/-- V-X10, V-F27: which check fails first; the lowest writable address. -/
theorem test_store_edges : let s := withRegs [(0, 0x12)] (boot 0xF255)
    got (setI 0x1FF s) = haltedAs 6 0xF255 (setI 0x1FF s) ∧
    got (setI 0xFFF s) = haltedAs 5 0xF255 (setI 0xFFF s) ∧
    memBlock 0x200 2 (got (setI 0x200 (withRegs [(0, 0x12)] (boot 0xF055)))) = [0x12, 0x55] := by decide

/-- V-F20: the register above `x` and `I` stay. -/
theorem test_load : let t := got (putBytes 0x300 [1, 5, 6, 9] (setI 0x300 (withRegs [(3, 0x77)] (boot 0xF265))))
    t.reg 0 = 1 ∧ t.reg 1 = 5 ∧ t.reg 2 = 6 ∧ t.reg 3 = 0x77 ∧ t.idx = 0x300 := by decide

/-- V-F21, V-F23: reading the font; no partial load. -/
theorem test_load_edges : let t := got (setI 5 (boot 0xF265))
    let s := setI 0xFFF (withRegs [(0, 7), (1, 8)] (boot 0xF165))
    t.reg 0 = 0x20 ∧ t.reg 1 = 0x60 ∧ t.reg 2 = 0x20 ∧ got s = haltedAs 5 0xF165 s := by decide

/-! ### Faults of the cycle and events -/

/-- V-X1, V-X4, V-X9: an illegal word; the fetch fault comes first. -/
theorem test_cycle_faults : got State.reset = haltedAs 1 0x0000 State.reset ∧
    got (setPc 0xFFF State.reset) = haltedAs 4 0xFFF (setPc 0xFFF State.reset) := by decide

/-- V-D7: the display and `VF` are as before. -/
theorem test_drw_fault : let s := setI 0xFFF (withRegs [(15, 1)] (boot 0xD012))
    got s = haltedAs 5 0xD012 s := by decide

/-- V-T2: the timers count down independently, floor 0. -/
theorem test_tick : let t := tick (setDT 1 (setST 2 State.reset))
    t.dt = 0 ∧ t.st = 1 ∧ (tick t).dt = 0 ∧ (tick t).st = 0 := by decide

/-- S8: the source's program, loaded by the host; its first instruction. -/
theorem test_load_image : ∃ s, Booted [0x60, 0x0A, 0x70, 0x05] s ∧ memBlock 0x200 5 s = [0x60, 0x0A, 0x70, 0x05, 0] ∧
    (got s).reg 0 = 0x0A ∧ (got s).pc = 0x202 := ⟨_, rfl, by decide⟩

/-- R208, R233: an ignored `KeyDown` comes between, so the `Load` is not directly after `Reset`; a second `Load`
neither; directly after `Reset` it is, inside a frame too. -/
theorem test_load_window :
    hostRun [.reset, .keyDown 0, .load [0x12, 0x00]] State.reset = .refused .loadNotAfterReset ∧
    hostRun [.reset, .load [0x12], .load [0x00]] State.reset = .refused .loadNotAfterReset ∧
    ∃ t, hostRun [.reset, .load [0x12, 0x00]] { State.reset with slot := 3, loadable := false } = .next t :=
  ⟨rfl, rfl, _, rfl⟩

/-- R236: a schedule that meets the host's duties, and one that does not. -/
theorem test_hostObeys : HostObeys [.reset, .load [0x12, 0x00], .frame, .keyDown 15] ∧
    ¬ HostObeys [.reset, .frame] := by
  constructor
  · refine ⟨by decide, fun e he => ?_⟩
    simp at he
    rcases he with rfl | rfl
    · exact .inl rfl
    · exact .inr ⟨15, by decide, rfl⟩
  · exact fun h => h

/-! ### Witnesses: for every obligation with hypotheses, inputs that meet them together -/

/-- A waiting machine. -/
def waiting : State := awaitKey 3 (setPc 0x202 State.reset)

/-- A halted machine. -/
def halted : State := raise .illegalInstruction 0 State.reset

theorem witness_DecodeOfEncodeIsInstr : (Instr.drw 15 15 15).wf = true ∧ (Instr.drw 0 0 0).wf = true := by decide

theorem witness_DecodedWordReencodes : decodeWord 0x5ABF = .instr (.seReg 10 11) := by decide

theorem witness_IllegalWordsAreTheFourSets :
    decodeWord 0x0FFF = .illegal .family0 ∧ decodeWord 0x8FFF = .illegal .family8 ∧
    decodeWord 0xEFFF = .illegal .familyE ∧ decodeWord 0xFFFF = .illegal .familyF := by decide

theorem witness_EveryWordSelectsItsRowAlone :
    decodeWord 0x00EE = .instr .ret ∧ decodeWord 0x00EF = .illegal .family0 := by decide

theorem witness_StepRunsDecodedInstruction : let s := bootAt 0xFFE 0x6FAB
    s.mode = .running ∧ s.pc.toNat ≤ 0xFFE ∧
    decodeBytes [s.byteAt s.pc.toNat, s.byteAt (s.pc.toNat + 1)] = (.instr (.ldImm 15 0xAB), []) := by decide

theorem witness_FetchIsBigEndianOrFaults :
    (setPc 0xFFE State.reset).pc.toNat ≤ 0xFFE ∧ (setPc 0xFFF State.reset).pc.toNat > 0xFFE := by decide

theorem witness_IllegalWordHaltsWithItself :
    fetch (boot 0x00E1) = some 0x00E1 ∧ decodeWord 0x00E1 = .illegal .family0 := by decide

theorem witness_FaultsArePrecise : (boot 0x00EE).mode = .running ∧
    ∃ t, step (boot 0x00EE) = .next t ∧ t.mode = .halted ∧ t.fcause.toNat ≠ 4 := ⟨by decide, _, rfl, by decide⟩

theorem witness_FaultsArePrecise_fetch : (setPc 0xFFF State.reset).mode = .running ∧
    ∃ t, step (setPc 0xFFF State.reset) = .next t ∧ t.mode = .halted ∧ t.fcause.toNat = 4 :=
  ⟨by decide, _, rfl, by decide⟩

theorem witness_FaultsComeFromTheirInstructions : State.reset.mode = .running ∧
    (∃ t, exec .ret State.reset = .next t ∧ t.mode = .halted) ∧
    (∃ t, exec (.drw 0 0 1) (setI 0x1000 State.reset) = .next t ∧ t.mode = .halted) ∧
    (∃ t, exec (.load 0) (setI 0x1000 State.reset) = .next t ∧ t.mode = .halted) ∧
    (∃ t, exec (.ldBcd 0) (setI 0xFFE State.reset) = .next t ∧ t.mode = .halted) ∧
    (∃ t, exec (.store 0) (setI 0x1FF State.reset) = .next t ∧ t.mode = .halted) :=
  ⟨rfl, ⟨_, rfl, by decide⟩, ⟨_, rfl, by decide⟩, ⟨_, rfl, by decide⟩, ⟨_, rfl, by decide⟩, ⟨_, rfl, by decide⟩⟩

/-- A stack of one entry that would be full, were `STACK_DEPTH` the least it may be. -/
theorem stackFull_of_depth {d : Nat} (h : Config.stackDepthLessOne = some d) :
    Config.stackDepth = some (List.replicate (d + 1) (0x202 : Word)).length := by
  simp [Config.stackDepth, h]

/-- The overflow clause has a state for every finite `STACK_DEPTH`; an unbounded stack never overflows. -/
theorem witness_CallPushesOrOverflows_full :
    Config.stackDepth = none ∨ ∃ s : State, Config.stackDepth = some s.stack.length := by
  cases h : Config.stackDepthLessOne with
  | none => exact .inl (by simp [Config.stackDepth, h])
  | some d => exact .inr ⟨{ State.reset with stack := List.replicate (d + 1) 0x202 }, stackFull_of_depth h⟩

theorem witness_CallPushesOrOverflows : Config.stackDepth ≠ some State.reset.stack.length := by
  cases h : Config.stackDepthLessOne <;> simp [Config.stackDepth, h, State.reset]

theorem witness_CallThenRetReturns : Config.stackDepth ≠ some State.reset.stack.length ∧
    ∃ t, exec (.call 0x300) State.reset = .next t ∧ (setPc 0x300 t).stack = t.stack :=
  ⟨witness_CallPushesOrOverflows, _, rfl, rfl⟩

theorem witness_HaltedStaysUntilReset : halted.mode = .halted ∧ halted.slot = 0 ∧ 15 ≤ 15 := by decide

theorem witness_WaitingExecutesNothing : waiting.mode = .awaitingKey ∧ waiting.slot = 0 := by decide

theorem witness_ModeTransitionsOfAStep :
    (∃ t, step (boot 0xF30A) = .next t ∧ t.mode = .awaitingKey) ∧
    (∃ t, step State.reset = .next t ∧ t.mode = .halted) ∧ (∃ t, step halted = .next t) ∧
    (∃ t, step (boot 0x1200) = .next t ∧ t.mode = .running) :=
  ⟨⟨_, rfl, by decide⟩, ⟨_, rfl, by decide⟩, ⟨_, rfl⟩, ⟨_, rfl, by decide⟩⟩

theorem witness_RetPopsOrUnderflows : ({ State.reset with stack := [0x202, 0x304] } : State).stack = [0x202, 0x304] ∧
    State.reset.stack = [] := by decide

/-- Both ways of every skip condition. -/
theorem witness_Skips : let s := withRegs [(1, 5), (2, 5)] State.reset
    s.reg 1 = 5 ∧ s.reg 1 ≠ 6 ∧ s.reg 1 = s.reg 2 ∧ s.reg 1 ≠ s.reg 3 := by decide

/-- A destination other than `VF`, for the flag clauses of ADD, SUB, SUBN, SHR, SHL, and a third register. -/
theorem witness_FlagClauses : (14 : RegIx) ≠ vf ∧ (0 : RegIx) ≠ 14 ∧ (0 : RegIx) ≠ vf := by decide

theorem witness_AluRoundTrips : let s := withRegs [(1, 0xC8), (2, 0x64)] State.reset
    (1 : RegIx) ≠ vf ∧ (1 : RegIx) ≠ 2 ∧ (2 : RegIx) ≠ vf ∧
    (∃ t, exec (.addReg 1 2) s = .next t ∧ ∃ u, exec (.sub 1 2) t = .next u) ∧
    (∃ t, exec (.xorReg 1 2) s = .next t ∧ ∃ u, exec (.xorReg 1 2) t = .next u) ∧
    (∃ t, exec (.shl 1) s = .next t ∧ ∃ u, exec (.shr 1) t = .next u) ∧
    (∃ t, exec (.sub 1 2) s = .next t) ∧ (∃ u, exec (.subn 1 2) s = .next u) :=
  ⟨by decide, by decide, by decide, ⟨_, rfl, _, rfl⟩, ⟨_, rfl, _, rfl⟩, ⟨_, rfl, _, rfl⟩, ⟨_, rfl⟩, ⟨_, rfl⟩⟩

theorem witness_TimerMoves : State.reset.mode ≠ .halted ∧ (0 : RegIx) ≠ 1 := by decide

theorem witness_KeyWaitThenKeyDown : 15 ≤ 15 ∧ (0 : RegIx) ≠ 1 := by decide

theorem witness_KeyDownInEveryMode : 15 ≤ 15 ∧ State.reset.mode ≠ .awaitingKey ∧ halted.mode ≠ .awaitingKey ∧
    waiting.mode = .awaitingKey ∧ 15 < 16 := by decide

theorem witness_BcdStoresThreeDigits : let s := setI 0x200 State.reset
    let t := setI 0xFFD State.reset
    Memory.wf s.mem ∧ 0x200 ≤ s.idx.toNat ∧ s.idx.toNat + 2 ≤ 0xFFF ∧
    Memory.wf t.mem ∧ 0x200 ≤ t.idx.toNat ∧ t.idx.toNat + 2 ≤ 0xFFF := by decide

/-- The block store's premises at both ends of memory, with every register and with one; the block load's. -/
theorem witness_StoreWritesTheBlock : let s := setI 0xFF0 State.reset
    let t := setI 0xFFF State.reset
    Memory.wf s.mem ∧ 0x200 ≤ s.idx.toNat ∧ s.idx.toNat + (15 : RegIx).val ≤ 0xFFF ∧
    Memory.wf t.mem ∧ 0x200 ≤ t.idx.toNat ∧ t.idx.toNat + (0 : RegIx).val ≤ 0xFFF := by decide

theorem witness_LoadReadsTheBlock : (setI 0xFF0 State.reset).idx.toNat + (15 : RegIx).val ≤ 0xFFF ∧
    (setI 0 State.reset).idx.toNat + (0 : RegIx).val ≤ 0xFFF := by decide

theorem witness_StoresFaultBeforeAnyWrite : (setI 0x1FF State.reset).idx.toNat ≤ 0x1FF ∧
    0x200 ≤ (setI 0xFFE State.reset).idx.toNat ∧ 0xFFF < (setI 0xFFE State.reset).idx.toNat + 2 ∧
    0x200 ≤ (setI 0xFFF State.reset).idx.toNat ∧ 0xFFF < (setI 0xFFF State.reset).idx.toNat + (1 : RegIx).val := by
  decide

theorem witness_ReadsFaultBeforeAnyEffect : 0xFFF < (setI 0x1000 State.reset).idx.toNat + (0 : RegIx).val ∧
    0 < 1 ∧ 0xFFF < (setI 0x1000 State.reset).idx.toNat + 1 - 1 := by decide

theorem witness_StoreThenLoadRestores : let s := setI 0xFFE (withRegs [(0, 7), (1, 8)] State.reset)
    Memory.wf s.mem ∧ 0x200 ≤ s.idx.toNat ∧ s.idx.toNat + (1 : RegIx).val ≤ 0xFFF ∧
    ∃ t, exec (.store 1) s = .next t ∧ ∃ u, exec (.load 1) t = .next u :=
  ⟨by decide, by decide, by decide, _, rfl, _, rfl⟩

theorem witness_DrawIsXorWithTheMask : (Instr.drw 0 1 15).wf = true ∧ (setI 0xFF1 State.reset).idx.toNat + 15 - 1 ≤ 0xFFF ∧
    (Instr.drw 0 1 0).wf = true := by decide

theorem witness_DrawTwiceRestores : let s := setI 5 State.reset
    (Instr.drw 0 1 5).wf = true ∧ (0 : RegIx) ≠ vf ∧ (1 : RegIx) ≠ vf ∧ s.idx.toNat + 5 - 1 ≤ 0xFFF ∧
    ∃ t, exec (.drw 0 1 5) s = .next t ∧ ∃ u, exec (.drw 0 1 5) t = .next u :=
  ⟨by decide, by decide, by decide, by decide, _, rfl, _, rfl⟩

theorem witness_InstructionsChangeOnlyTheirParts : State.reset.mode = .running ∧
    (∃ t, exec (.store 1) (setI 0x300 State.reset) = .next t ∧ t.mode ≠ .halted) ∧
    ¬ storesTo (.store 1) (setI 0x300 State.reset) 0x302 := by
  refine ⟨rfl, ⟨_, rfl, by decide⟩, ?_⟩
  simp [storesTo, base]

theorem witness_InstructionsWriteOnlyTheirRegisters :
    (∃ t, exec (.addReg 1 2) State.reset = .next t) ∧ ¬ writesReg (.addReg 1 2) 2 :=
  ⟨⟨_, rfl⟩, by simp [writesReg]; decide⟩

theorem witness_ReservedRegionNeverChanges : (∃ t, step (setI 0x200 (boot 0xF055)) = .next t) ∧ 0x1FF ≤ 0x1FF :=
  ⟨⟨_, rfl⟩, by decide⟩

/-- The invariant holds where the vectors start. -/
theorem reset_inv : Inv State.reset where
  memory := by decide
  reserved := fun _ _ => rfl
  stack := fun _ _ => Nat.zero_le _
  cause := by simp [HaltedHasCause, State.reset]
  slot := by simp [SlotSound, State.reset, Config.ipf]

theorem witness_StepKeepsInvariant : Inv State.reset ∧ ∃ t, step State.reset = .next t := ⟨reset_inv, _, rfl⟩

/-- A `Frame` of the reset machine: its first instruction is illegal (R232) and ends the batch. -/
theorem frame_answers : ∃ t, hostMove .frame State.reset = .next t := by
  have h : ∀ n, batch n (haltedAs 1 0 State.reset) = .next (haltedAs 1 0 State.reset) := by
    intro n; cases n <;> rfl
  have hb : batch Config.ipf State.reset = .next (haltedAs 1 0 State.reset) := h Config.ipfLessOne
  exact ⟨haltedAs 1 0 State.reset, show thenApply (thenApply (batch Config.ipf State.reset) tickIfRunning) closeLoad = _ by rw [hb]; rfl⟩

theorem witness_HostMovesKeepInvariant : Inv State.reset ∧ (∃ t, hostMove .reset State.reset = .next t) ∧
    (∃ t, hostMove (.load [0x12, 0x00]) State.reset = .next t) ∧
    (∃ t, hostMove (.keyDown 15) State.reset = .next t) ∧ ∃ t, hostMove .frame State.reset = .next t :=
  ⟨reset_inv, ⟨_, rfl⟩, ⟨_, rfl⟩, ⟨_, rfl⟩, frame_answers⟩

theorem witness_StepKeepsPcBound : PcBounded State.reset ∧ ∃ t, step State.reset = .next t :=
  ⟨⟨by decide, by simp [State.reset]⟩, _, rfl⟩

theorem witness_LoadPlacesTheImage : (List.replicate 3584 (0 : Byte)).length ≤ 3584 ∧
    3584 < (List.replicate 3585 (0 : Byte)).length ∧
    (∃ t, cycle (boot 0x1200) = .next t ∧ t.slot = 0) ∧
    (∃ t, HostMove.keyDown 15 ≠ .reset ∧ hostMove (.keyDown 15) State.reset = .next t) ∧
    (∃ t, HostMove.load [0x12] ≠ .reset ∧ hostMove (.load [0x12]) State.reset = .next t) :=
  ⟨by rw [List.length_replicate], by rw [List.length_replicate]; decide, ⟨_, rfl, by decide⟩,
    ⟨_, by decide, rfl⟩, ⟨_, by decide, rfl⟩⟩

theorem witness_TickCountsBothTimersDown : State.reset.mode = .running ∧ waiting.mode ≠ .running := by decide

theorem witness_SlotCloses : State.reset.mode = .running ∧ halted.mode ≠ .running := by decide

theorem witness_FrameIsItsSteps : State.reset.mode = .running ∧ State.reset.slot = 0 := by decide

theorem witness_FinishedIsFinal : Finished (boot 0x1200) :=
  ⟨by decide, 0x1200, 0x200, by decide, by decide, by decide⟩

end Sys2Proof.Tests
end

section
/-! The family of 10_state.md: how an instruction can end and what it changes, each said once; from these the
invariants of a step and of the host, the transitions of `MODE`, and the frame of every instruction. -/

namespace Sys2Proof.Machine

/-! ### What an instruction can do to the parts that the invariants speak of -/

/-- Where an instruction that neither calls nor returns can leave `pc`: behind itself, behind the instruction it
skips, at an immediate address, or at the target of `Bnnn` (R24, R102, R142). -/
def PcTarget (s : State) (p : Word) : Prop :=
  p = s.pc + 2 ∨ p = s.pc + 2 + 2 ∨ (∃ nnn, p = immAddr nnn) ∨ ∃ nnn, p = indexedTarget nnn s

/-- The memory, the stack, the fault cause, the mode and the slot are the same in both states. -/
structure SameControl (s t : State) : Prop where
  mem : t.mem = s.mem
  stack : t.stack = s.stack
  fcause : t.fcause = s.fcause
  mode : t.mode = s.mode
  slot : t.slot = s.slot

/-- The ways in which an instruction can end, by what it does to memory, stack, mode, cause and `pc`. -/
inductive Ending (i : Instr) (s : State) : State → Prop
  /-- fault entry (R203) -/
  | fault (f : Fault) : Ending i s (raise f (encode i) s)
  /-- only registers, index, timers, display and `pc` may differ -/
  | data {t : State} (same : SameControl s t) (target : PcTarget s t.pc) : Ending i s t
  /-- a return (R101) -/
  | ret {a : Word} {rest : List Word} (hstack : s.stack = a :: rest) : Ending i s (popTo a rest (advance s))
  /-- a call (R103) -/
  | call (nnn : Addr12) (room : stackFull s = false) :
      Ending i s (setPc (immAddr nnn) (push (s.pc + 2) (advance s)))
  /-- stores that passed their checks (R58, R179) -/
  | store (bs : List Byte) (low : 0x200 ≤ base s) (high : base s + bs.length ≤ 4096) :
      Ending i s (putBytes (base s) bs (advance s))
  /-- the key wait (R171) -/
  | wait (x : RegIx) (hi : i = .ldKey x) : Ending i s (awaitKey x (advance s))

/-- A sprite draw from the advanced state changes no control part. -/
theorem DrawFrame.sameControl {s t : State} (h : DrawFrame (advance s) t) : SameControl s t := by
  rw [h.2]
  exact ⟨rfl, rfl, rfl, rfl, rfl⟩

/-- A sprite draw from the advanced state leaves `pc` behind the instruction. -/
theorem DrawFrame.pcTarget {s t : State} (h : DrawFrame (advance s) t) : PcTarget s t.pc := by
  rw [h.2]
  exact .inl rfl

/-- A block load from the advanced state changes no control part. -/
theorem sameControl_setBlock (bs : List Byte) (s : State) : SameControl s (setBlock bs (advance s)) :=
  ⟨setBlock_mem bs _, setBlock_stack bs _, setBlock_fcause bs _, setBlock_mode bs _, setBlock_slot bs _⟩

/-- RET on an empty stack faults, otherwise it goes to the last entry (R101). -/
theorem execRet_next {s t : State} (h : execRet s = .next t) :
    t = raise .stackUnderflow (encode .ret) s ∨ ∃ a rest, s.stack = a :: rest ∧ t = popTo a rest (advance s) := by
  unfold execRet at h
  split at h
  · exact .inl (by simpa using h.symm)
  · next a rest hs => exact .inr ⟨a, rest, hs, by simpa using h.symm⟩

/-- CALL on a full stack faults, otherwise it pushes the advanced `pc` and jumps (R103). -/
theorem execCall_next {nnn : Addr12} {s t : State} (h : execCall nnn s = .next t) :
    t = raise .stackOverflow (encode (.call nnn)) s ∨
    (stackFull s = false ∧ t = setPc (immAddr nnn) (push (s.pc + 2) (advance s))) := by
  unfold execCall at h
  split at h
  · exact .inl (by simpa using h.symm)
  · next hs => exact .inr ⟨hs, by simpa using h.symm⟩

/-- A checked store faults or stores inside 0x200-0xFFF. -/
theorem ending_of_checked_store {i : Instr} {s t : State} {bs : List Byte} (hpos : 0 < bs.length)
    (h : settle (firstFault writeFault (base s) bs.length) i s (putBytes (base s) bs (advance s)) = .next t) :
    Ending i s t := by
  obtain ⟨f, -, rfl⟩ | ⟨hf, rfl⟩ := settle_next h
  · exact .fault f
  · obtain hz | ⟨hlow, hhigh⟩ := firstFault_write_none.1 hf
    · omega
    · exact .store bs hlow hhigh

/-- Every instruction ends in one of the ways of `Ending`. -/
theorem ending_of_exec {i : Instr} {s t : State} (h : exec i s = .next t) : Ending i s t := by
  cases i with
  | ret =>
    obtain rfl | ⟨a, rest, hs, rfl⟩ := execRet_next h
    · exact .fault _
    · exact .ret hs
  | call nnn =>
    obtain rfl | ⟨hroom, rfl⟩ := execCall_next h
    · exact .fault _
    · exact .call nnn hroom
  | jp nnn =>
    cases h
    exact .data ⟨rfl, rfl, rfl, rfl, rfl⟩ (.inr (.inr (.inl ⟨nnn, rfl⟩)))
  | jpV0 nnn =>
    cases h
    exact .data ⟨rfl, rfl, rfl, rfl, rfl⟩ (.inr (.inr (.inr ⟨nnn, rfl⟩)))
  | seImm | sneImm | seReg | sneReg | skp | sknp =>
    cases h
    refine .data ⟨rfl, rfl, rfl, rfl, rfl⟩ ?_
    simp only [skipIf_pc, advance_pc]
    split
    · exact .inr (.inl rfl)
    · exact .inl rfl
  | ldKey x =>
    cases h
    exact .wait x rfl
  | ldBcd x => exact ending_of_checked_store (bs := bcdDigits (s.reg x)) (by simp) h
  | store x => exact ending_of_checked_store (bs := regBlock x s) (by simp) (by rw [length_regBlock]; exact h)
  | drw x y n =>
    obtain ⟨f, -, rfl⟩ | ⟨-, rfl⟩ := settle_next h
    · exact .fault f
    · have hd := drawFrame_drawSprite (s.reg x) (s.reg y) (base s) n (advance s)
      exact .data hd.sameControl hd.pcTarget
  | load x =>
    obtain ⟨f, -, rfl⟩ | ⟨-, rfl⟩ := settle_next h
    · exact .fault f
    · exact .data (sameControl_setBlock _ s) (.inl rfl)
  | cls | ldImm | addImm | ldReg | orReg | andReg | xorReg | addReg | sub | shr | subn | shl | ldI | rnd | ldFromDT
  | ldToDT | ldToST | addI | ldFont =>
    cases h
    exact .data ⟨rfl, rfl, rfl, rfl, rfl⟩ (.inl rfl)

/-! ### The invariant, without the frame bookkeeping -/

/-- The clauses of `Inv` that a single `Cycle` keeps; the slot is sound again only when it has closed (R211). -/
structure CycleInv (s : State) : Prop where
  memory : Memory.wf s.mem
  reserved : ReservedIntact s
  stack : StackBounded s
  cause : HaltedHasCause s

theorem Inv.cycleInv {s : State} (h : Inv s) : CycleInv s := ⟨h.memory, h.reserved, h.stack, h.cause⟩

theorem CycleInv.inv {s : State} (h : CycleInv s) (hslot : SlotSound s) : Inv s :=
  ⟨h.memory, h.reserved, h.stack, h.cause, hslot⟩

/-- Only memory, stack, cause and whether the machine is halted matter. -/
theorem CycleInv.congr {s t : State} (h : CycleInv s) (hmem : t.mem = s.mem) (hstack : t.stack = s.stack)
    (hcause : t.fcause = s.fcause) (hmode : t.mode = .halted ↔ s.mode = .halted) : CycleInv t where
  memory := hmem ▸ h.memory
  reserved := fun a ha => by rw [State.byteAt, hmem]; exact h.reserved a ha
  stack := fun d hd => hstack ▸ h.stack d hd
  cause := by rw [HaltedHasCause, hmode, hcause]; exact h.cause

/-- Fault entry keeps the clauses: it halts the machine with a cause. -/
theorem CycleInv.raise {s : State} (h : CycleInv s) (f : Fault) (w : Word) : CycleInv (raise f w s) where
  memory := h.memory
  reserved := h.reserved
  stack := h.stack
  cause := ⟨fun _ => faultCode_ne_zero f, fun _ => rfl⟩

/-- Stores that stay inside 0x200-0xFFF keep the clauses. -/
theorem CycleInv.putBytes {s : State} (h : CycleInv s) {a : Nat} {bs : List Byte} (hlow : 0x200 ≤ a)
    (hhigh : a + bs.length ≤ 4096) : CycleInv (putBytes a bs s) where
  memory := putAll_wf h.memory bs hhigh
  reserved := fun c hc => by
    have hbelow : c < a := Nat.lt_of_lt_of_le (Nat.lt_succ_of_le hc) hlow
    exact (byteAt_putBytes_outside s bs (.inl hbelow)).trans (h.reserved c hc)
  stack := h.stack
  cause := h.cause

/-- A push on a stack that is not full stays within `STACK_DEPTH` (R28). -/
theorem StackBounded.push {s t : State} (h : StackBounded s) (hroom : stackFull s = false) (v : Word)
    (ht : t.stack = v :: s.stack) : StackBounded t := by
  intro d hd
  have hne : s.stack.length ≠ d := by
    rintro rfl
    simp [(stackFull_iff s).2 hd] at hroom
  have hle := h d hd
  rw [ht, List.length_cons]
  omega

/-- However an instruction of a running machine ends, the clauses hold and the slot is untouched. -/
theorem Ending.cycleInv {i : Instr} {s t : State} (e : Ending i s t) (h : CycleInv s) (hs : s.mode = .running) :
    CycleInv t ∧ t.slot = s.slot := by
  cases e with
  | fault f => exact ⟨h.raise f _, rfl⟩
  | data same _ =>
    exact ⟨h.congr same.mem same.stack same.fcause (by rw [same.mode]), same.slot⟩
  | ret hstack =>
    refine ⟨⟨h.memory, h.reserved, fun d hd => ?_, h.cause⟩, rfl⟩
    have := h.stack d hd
    rw [hstack, List.length_cons] at this
    exact Nat.le_of_succ_le this
  | call nnn room => exact ⟨⟨h.memory, h.reserved, h.stack.push room _ rfl, h.cause⟩, rfl⟩
  | store bs low high =>
    have hadv : CycleInv (advance s) := h.congr rfl rfl rfl Iff.rfl
    exact ⟨hadv.putBytes low high, rfl⟩
  | wait x _ => exact ⟨h.congr rfl rfl rfl (by simp [hs]), rfl⟩

/-- A fetch and execution of a running machine keeps the clauses and the slot. -/
theorem fetchAndExec_cycleInv {s t : State} (h : CycleInv s) (hs : s.mode = .running)
    (hf : fetchAndExec s = .next t) : CycleInv t ∧ t.slot = s.slot := by
  obtain ⟨-, rfl⟩ | ⟨w, r, -, -, rfl⟩ | ⟨w, i, -, -, hi⟩ := fetchAndExec_cases hf
  · exact ⟨h.raise _ _, rfl⟩
  · exact ⟨h.raise _ _, rfl⟩
  · exact (ending_of_exec hi).cycleInv h hs

/-! ### The frame bookkeeping (R211) -/

theorem ipf_pos : 0 < Config.ipf := Nat.succ_pos _

/-- Slot 0 is sound in every mode. -/
theorem slotSound_of_slot_eq_zero {s : State} (h : s.slot = 0) : SlotSound s :=
  ⟨h ▸ ipf_pos, fun _ => h⟩

/-- Closing a slot of the batch leaves a sound slot, whatever the mode. -/
theorem slotSound_closeSlot {s : State} : SlotSound (closeSlot s) := by
  cases hm : s.mode with
  | running =>
    refine ⟨?_, fun hne => absurd ((closeSlot_mode s).trans hm) hne⟩
    simp only [closeSlot, hm, lastSlot, decide_eq_true_eq]
    split
    · exact ipf_pos
    · omega
  | awaitingKey => exact slotSound_of_slot_eq_zero (by simp [closeSlot, hm])
  | halted => exact slotSound_of_slot_eq_zero (by simp [closeSlot, hm])

theorem CycleInv.afterCycle {s : State} (h : CycleInv s) : CycleInv (afterCycle s) := h.congr rfl rfl rfl Iff.rfl

theorem CycleInv.closeSlot {s : State} (h : CycleInv s) : CycleInv (closeSlot s) :=
  h.congr (closeSlot_mem s) (closeSlot_stack s) (closeSlot_fcause s) (by rw [closeSlot_mode])

/-! ### Steps of a waiting machine -/

/-- A step of a waiting machine: the wait goes on, or a key arrives (R210, R211). -/
theorem awaitStep_cases (s : State) :
    awaitStep s = afterCycle s ∨ ∃ k, awaitStep s = afterCycle (deliverKey k s) := by
  unfold awaitStep
  split
  · next k _ => exact .inr ⟨k, rfl⟩
  · exact .inl rfl

/-- A step that answers a state: a cycle and the bookkeeping, a step of the wait, or nothing. -/
theorem step_cases {s t : State} (h : step s = .next t) :
    (s.mode = .running ∧ ∃ u, fetchAndExec s = .next u ∧ t = closeSlot (afterCycle u)) ∨
    (s.mode = .awaitingKey ∧ t = awaitStep s) ∨ (s.mode = .halted ∧ t = s) := by
  cases hm : s.mode with
  | running => exact .inl ⟨rfl, step_running hm h⟩
  | awaitingKey => exact .inr (.inl ⟨rfl, by simpa [step, hm] using h.symm⟩)
  | halted => exact .inr (.inr ⟨rfl, by simpa [step, hm, haltedStep] using h.symm⟩)

/-- A key that ends a wait keeps the clauses (R210). -/
theorem CycleInv.deliverKey {s : State} (h : CycleInv s) (hs : s.mode = .awaitingKey) (k : RegIx) :
    CycleInv (deliverKey k s) :=
  h.congr rfl rfl rfl (by simp [hs])

/-- Settles O49: each cycle keeps the clauses of R41, and closing the slot makes the bookkeeping sound again. -/
theorem stepKeepsInvariant : Obligations.StepKeepsInvariant := by
  intro s t h hstep
  obtain ⟨hs, u, hu, rfl⟩ | ⟨hs, rfl⟩ | ⟨-, rfl⟩ := step_cases hstep
  · have hc := (fetchAndExec_cycleInv h.cycleInv hs hu).1
    exact hc.afterCycle.closeSlot.inv slotSound_closeSlot
  · have hslot : s.slot = 0 := h.slot.2 (by simp [hs])
    obtain ht | ⟨k, ht⟩ := awaitStep_cases s <;> rw [ht]
    · exact h.cycleInv.afterCycle.inv (slotSound_of_slot_eq_zero hslot)
    · exact (h.cycleInv.deliverKey hs k).afterCycle.inv (slotSound_of_slot_eq_zero hslot)
  · exact h

/-! ### Moves of the host -/

/-- At reset memory lists nothing, the stack is empty and the machine runs with no cause and slot 0 (R39). -/
theorem inv_reset : Inv State.reset where
  memory := reset_memory_wf
  reserved := fun _ _ => rfl
  stack := fun _ _ => Nat.zero_le _
  cause := by simp [HaltedHasCause, State.reset]
  slot := slotSound_of_slot_eq_zero rfl

/-- `Reset` leads into the invariant from any state (R230). -/
theorem inv_hostReset (s : State) : Inv (hostReset s) :=
  ⟨inv_reset.memory, inv_reset.reserved, inv_reset.stack, inv_reset.cause, inv_reset.slot⟩

theorem CycleInv.closeLoad {s : State} (h : CycleInv s) : CycleInv (closeLoad s) := h.congr rfl rfl rfl Iff.rfl

/-- `Load` puts its image between 0x200 and the top of memory (R233). -/
theorem loadImage_keeps_inv {image : List Byte} {s t : State} (h : Inv s) (hl : loadImage image s = .next t) :
    Inv t := by
  obtain ⟨-, -, hlen, rfl⟩ := loadImage_next hl
  have hfits : Config.progBase + image.length ≤ 4096 := by
    simp only [Config.progBase, Config.maxImage] at hlen ⊢
    omega
  have hput : CycleInv (putBytes Config.progBase image s) := h.cycleInv.putBytes (Nat.le_refl _) hfits
  exact hput.closeLoad.inv h.slot

/-- `KeyDown` ends a wait or is ignored (R210). -/
theorem keyDown_next {k : Nat} {s t : State} (h : keyDown k s = .next t) :
    (s.mode = .awaitingKey ∧ ∃ r, t = deliverKey r s) ∨ t = s := by
  unfold keyDown at h
  split at h
  · next hk =>
    split at h
    · next hs => exact .inl ⟨hs, ⟨k, hk⟩, by simpa using h.symm⟩
    · exact .inr (by simpa using h.symm)
    · exact .inr (by simpa using h.symm)
  · simp at h

/-- One more turn of the loop of `Frame`: a cycle of a running machine and the rest, or the end (R211). -/
theorem batch_succ_next {n : Nat} {s t : State} (h : batch (n + 1) s = .next t) :
    (s.mode = .running ∧ ∃ u, fetchAndExec s = .next u ∧ batch n (afterCycle u) = .next t) ∨ t = s := by
  unfold batch at h
  split at h
  · next hs =>
    split at h
    · next v hv =>
      obtain ⟨u, hu, rfl⟩ := thenApply_eq_next hv
      exact .inl ⟨hs, u, hu, h⟩
    · simp at h
    · simp at h
  · exact .inr (by simpa using h.symm)
  · exact .inr (by simpa using h.symm)

/-- The loop of `Frame` keeps the clauses and the slot, however many cycles it runs. -/
theorem batch_cycleInv {n : Nat} {s t : State} (h : CycleInv s) (hb : batch n s = .next t) :
    CycleInv t ∧ t.slot = s.slot := by
  induction n generalizing s with
  | zero =>
    obtain rfl : s = t := by simpa [batch] using hb
    exact ⟨h, rfl⟩
  | succ n ih =>
    obtain ⟨hs, u, hu, hrest⟩ | rfl := batch_succ_next hb
    · obtain ⟨hc, hslot⟩ := fetchAndExec_cycleInv h hs hu
      obtain ⟨ht, hslot'⟩ := ih hc.afterCycle hrest
      exact ⟨ht, hslot'.trans hslot⟩
    · exact ⟨h, rfl⟩

/-- The end of a `Frame` changes the timers at most (R211). -/
theorem sameControl_tickIfRunning (s : State) : SameControl s (tickIfRunning s) := by
  unfold tickIfRunning
  split <;> exact ⟨rfl, rfl, rfl, rfl, rfl⟩

/-- A `Frame` is ignored, or it is the loop and the end of the frame (R211). -/
theorem frame_next {s t : State} (h : frame s = .next t) :
    t = s ∨ ∃ u, batch Config.ipf s = .next u ∧ t = tickIfRunning u := by
  unfold frame at h
  split at h
  · exact .inl (by simpa using h.symm)
  · exact .inr (thenApply_eq_next h)
  · exact .inr (thenApply_eq_next h)

/-- A whole `Frame` keeps the clauses and the slot. -/
theorem frame_cycleInv {s t : State} (h : CycleInv s) (hf : frame s = .next t) : CycleInv t ∧ t.slot = s.slot := by
  obtain rfl | ⟨u, hu, rfl⟩ := frame_next hf
  · exact ⟨h, rfl⟩
  · obtain ⟨hc, hslot⟩ := batch_cycleInv h hu
    have same := sameControl_tickIfRunning u
    exact ⟨hc.congr same.mem same.stack same.fcause (by rw [same.mode]), same.slot.trans hslot⟩

/-- Between frames the slot is 0, and closing the Load window keeps every clause. -/
theorem CycleInv.inv_closeLoad {s : State} (h : CycleInv s) (hslot : s.slot = 0) : Inv (Machine.closeLoad s) :=
  h.closeLoad.inv (slotSound_of_slot_eq_zero hslot)

/-- Settles O50, move by move; a `Frame` by induction on its batch. -/
theorem hostMovesKeepInvariant : Obligations.HostMovesKeepInvariant := by
  intro e s t h hm
  obtain ⟨-, rfl⟩ | ⟨-, image, -, hl⟩ | ⟨h0, -, u, hf, rfl⟩ | ⟨h0, k, -, u, hk, rfl⟩ := hostMove_next hm
  · exact inv_hostReset s
  · exact loadImage_keeps_inv h hl
  · obtain ⟨hc, hslot⟩ := frame_cycleInv h.cycleInv hf
    exact hc.inv_closeLoad (hslot.trans h0)
  · obtain ⟨hs, r, rfl⟩ | rfl := keyDown_next hk
    · exact (h.cycleInv.deliverKey hs r).inv_closeLoad h0
    · exact h.cycleInv.inv_closeLoad h0

/-- Settles O48. -/
theorem invariantAtReset : Obligations.InvariantAtReset := inv_reset

/-! ### The bound on `pc` -/

/-- A successful fetch was at an address up to 0xFFE (R57). -/
theorem pc_le_of_fetch {s : State} {w : Word} (h : fetch s = some w) : s.pc.toNat ≤ 0xFFE := by
  unfold fetch at h
  split at h
  · simp at h
  · omega

theorem PcBounded.congr {s t : State} (h : PcBounded s) (hpc : t.pc = s.pc) (hstack : t.stack = s.stack) :
    PcBounded t :=
  ⟨hpc ▸ h.pc, hstack ▸ h.stack⟩

/-- The advanced `pc` after a fetch has not wrapped. -/
theorem toNat_pc_advanced {s : State} (hpc : s.pc.toNat ≤ 0xFFE) : (s.pc + 2).toNat = s.pc.toNat + 2 := by
  bv_omega

theorem toNat_immAddr_le (nnn : Addr12) : (immAddr nnn).toNat ≤ 0xFFF := by
  have := nnn.isLt
  simp only [immAddr, BitVec.toNat_setWidth]
  omega

/-- The target of `Bnnn` is at most 0xFF + 0xFFF = 0x10FE (R142). -/
theorem toNat_indexedTarget_le (nnn : Addr12) (s : State) : (indexedTarget nnn s).toNat ≤ 0x10FE := by
  have hn := toNat_immAddr_le nnn
  have hv := (s.reg 0).isLt
  simp only [indexedTarget, BitVec.toNat_add, BitVec.toNat_setWidth]
  omega

/-- From a `pc` at which a fetch succeeds, no instruction without a stack effect leaves the bound. -/
theorem PcTarget.toNat_le {s : State} {p : Word} (h : PcTarget s p) (hpc : s.pc.toNat ≤ 0xFFE) :
    p.toNat ≤ 0x10FE := by
  obtain rfl | rfl | ⟨nnn, rfl⟩ | ⟨nnn, rfl⟩ := h
  · bv_omega
  · bv_omega
  · exact Nat.le_trans (toNat_immAddr_le nnn) (by decide)
  · exact toNat_indexedTarget_le nnn s

/-- However an instruction ends, `pc` and the stack stay within the bound if its fetch succeeded. -/
theorem Ending.pcBounded {i : Instr} {s t : State} (e : Ending i s t) (h : PcBounded s)
    (hpc : s.pc.toNat ≤ 0xFFE) : PcBounded t := by
  have hnext := toNat_pc_advanced hpc
  cases e with
  | fault f => exact h.congr rfl rfl
  | data same target => exact ⟨target.toNat_le hpc, same.stack ▸ h.stack⟩
  | ret hstack =>
    have hentries := h.stack
    rw [hstack, List.forall_mem_cons] at hentries
    exact ⟨Nat.le_trans hentries.1 (by decide), hentries.2⟩
  | call nnn _ =>
    refine ⟨Nat.le_trans (toNat_immAddr_le nnn) (by decide), List.forall_mem_cons.2 ⟨?_, h.stack⟩⟩
    omega
  | store bs _ _ => exact ⟨show (s.pc + 2).toNat ≤ 0x10FE by omega, h.stack⟩
  | wait x _ => exact ⟨show (s.pc + 2).toNat ≤ 0x10FE by omega, h.stack⟩

/-- A fetch and execution keeps the bound: `pc` moves only after a fetch that succeeded. -/
theorem fetchAndExec_pcBounded {s t : State} (h : PcBounded s) (hf : fetchAndExec s = .next t) : PcBounded t := by
  obtain ⟨-, rfl⟩ | ⟨w, r, -, -, rfl⟩ | ⟨w, i, hw, -, hi⟩ := fetchAndExec_cases hf
  · exact h.congr rfl rfl
  · exact h.congr rfl rfl
  · exact (ending_of_exec hi).pcBounded h (pc_le_of_fetch hw)

/-- Settles O52: `pc` moves only in a cycle, and from at most 0xFFE. -/
theorem stepKeepsPcBound : Obligations.StepKeepsPcBound := by
  intro s t h hstep
  obtain ⟨-, u, hu, rfl⟩ | ⟨-, rfl⟩ | ⟨-, rfl⟩ := step_cases hstep
  · exact (fetchAndExec_pcBounded h hu).congr (closeSlot_pc _) (closeSlot_stack _)
  · obtain ht | ⟨k, ht⟩ := awaitStep_cases s <;> rw [ht]
    · exact h.congr rfl rfl
    · exact h.congr rfl rfl
  · exact h

/-- Settles O51. -/
theorem pcBoundAtReset : Obligations.PcBoundAtReset := ⟨by decide, by simp [State.reset]⟩

/-! ### The transitions of `MODE` -/

/-- However an instruction ends, the mode is as it was, or `Fx0A` waits for its register, or the machine has
halted with a cause. -/
theorem Ending.mode_cases {i : Instr} {s t : State} (e : Ending i s t) :
    t.mode = s.mode ∨ (∃ x, i = .ldKey x ∧ t.mode = .awaitingKey ∧ t.kreg = x) ∨
    (t.mode = .halted ∧ t.fcause ≠ 0) := by
  cases e with
  | fault f => exact .inr (.inr ⟨rfl, faultCode_ne_zero f⟩)
  | data same _ => exact .inl same.mode
  | ret _ | call _ _ | store _ _ _ => exact .inl rfl
  | wait x hi => exact .inr (.inl ⟨x, hi, rfl, rfl⟩)

/-- Settles O14: in a cycle by how the instruction ends, in a wait by whether a key arrives. -/
theorem modeTransitionsOfAStep : Obligations.ModeTransitionsOfAStep := by
  intro s t hstep
  obtain ⟨hs, u, hu, rfl⟩ | ⟨hs, rfl⟩ | ⟨-, rfl⟩ := step_cases hstep
  · simp only [closeSlot_mode, closeSlot_kreg, closeSlot_fcause, afterCycle_mode, afterCycle_kreg,
      afterCycle_fcause]
    obtain ⟨-, rfl⟩ | ⟨w, r, -, -, rfl⟩ | ⟨w, i, hw, hd, hi⟩ := fetchAndExec_cases hu
    · exact .inr (.inr (.inr ⟨hs, rfl, faultCode_ne_zero .fetchAddressFault⟩))
    · exact .inr (.inr (.inr ⟨hs, rfl, faultCode_ne_zero .illegalInstruction⟩))
    · obtain hm | ⟨x, rfl, hm, hk⟩ | ⟨hm, hc⟩ := (ending_of_exec hi).mode_cases
      · exact .inl hm
      · exact .inr (.inl ⟨hs, hm, w, x, hw, hd, hk⟩)
      · exact .inr (.inr (.inr ⟨hs, hm, hc⟩))
  · obtain ht | ⟨k, ht⟩ := awaitStep_cases s <;> rw [ht]
    · exact .inl rfl
    · exact .inr (.inr (.inl ⟨hs, rfl⟩))
  · exact .inl rfl

/-! ### The frame of every instruction -/

/-- `s` with the listed parts taken from `t`, every other part its own. -/
def takeParts (ps : List Part) (s t : State) : State where
  v := if .regs ∈ ps then t.v else s.v
  idx := if .idx ∈ ps then t.idx else s.idx
  pc := if .pc ∈ ps then t.pc else s.pc
  stack := if .stack ∈ ps then t.stack else s.stack
  dt := if .dt ∈ ps then t.dt else s.dt
  st := if .st ∈ ps then t.st else s.st
  mode := if .mode ∈ ps then t.mode else s.mode
  kreg := if .kreg ∈ ps then t.kreg else s.kreg
  fcause := if .fault ∈ ps then t.fcause else s.fcause
  finfo := if .fault ∈ ps then t.finfo else s.finfo
  mem := if .mem ∈ ps then t.mem else s.mem
  disp := if .disp ∈ ps then t.disp else s.disp
  slot := if .model ∈ ps then t.slot else s.slot
  now := if .model ∈ ps then t.now else s.now
  loadable := if .model ∈ ps then t.loadable else s.loadable

/-- A state that is `s` but for its listed parts changes nothing else. -/
theorem onlyChanges_of_eq_takeParts {ps : List Part} {s t : State} (h : t = takeParts ps s t) :
    OnlyChanges ps s t := by
  intro p hp
  rw [h]
  cases p <;> simp [Kept, takeParts, State.reg, State.byteAt, State.pixel, hp]

/-- What an instruction that completes does: it changes only its parts, its registers and its bytes. -/
structure Completes (i : Instr) (s t : State) : Prop where
  parts : OnlyChanges (writtenParts i) s t
  regs : ∀ z, ¬ writesReg i z → t.reg z = s.reg z
  bytes : ∀ a, ¬ storesTo i s a → t.byteAt a = s.byteAt a

/-- An instruction that may change neither registers nor memory. -/
theorem completes_of_eq_takeParts {i : Instr} {s t : State} (h : t = takeParts (writtenParts i) s t)
    (hregs : .regs ∉ writtenParts i) (hmem : .mem ∉ writtenParts i) : Completes i s t :=
  have parts := onlyChanges_of_eq_takeParts h
  ⟨parts, fun z _ => parts .regs hregs z, fun a _ => parts .mem hmem a⟩

/-- A flag and a result leave every register but the destination and `VF` as it was. -/
theorem reg_setFlagThenResult_ne {x z : RegIx} (flag result : Byte) (s : State) (h : ¬ (z = x ∨ z = vf)) :
    (setFlagThenResult x flag result s).reg z = s.reg z := by
  obtain ⟨hx, hvf⟩ := not_or.1 h
  rw [reg_setFlagThenResult, if_neg hx, if_neg hvf]

/-- A block load leaves every register behind the block as it was. -/
theorem reg_setBlock_of_le {bs : List Byte} {z : RegIx} (s : State) (h : bs.length ≤ z.val) :
    (setBlock bs s).reg z = s.reg z := by
  rw [reg_setBlock, List.getD_eq_default _ _ h]

/-- A block load from the advanced state changes `pc` and registers. -/
theorem onlyChanges_setBlock (bs : List Byte) (s : State) : OnlyChanges [.pc, .regs] s (setBlock bs (advance s)) := by
  have h : ∀ v, OnlyChanges [.pc, .regs] s { advance s with v := v } := fun _ => onlyChanges_of_eq_takeParts rfl
  exact h _

/-- A sprite draw from the advanced state changes `pc`, registers and display. -/
theorem DrawFrame.onlyChanges {s t : State} (h : DrawFrame (advance s) t) : OnlyChanges [.pc, .regs, .disp] s t := by
  apply onlyChanges_of_eq_takeParts
  rw [h.2]
  rfl

theorem DrawFrame.byteAt {s t : State} (h : DrawFrame s t) (a : Nat) : t.byteAt a = s.byteAt a := by
  rw [h.2]
  rfl

/-- Checked stores fault, or change memory at the stored addresses only. -/
theorem fault_or_stores {i : Instr} {s t : State} {f : Option Fault} {bs : List Byte}
    (h : settle f i s (putBytes (base s) bs (advance s)) = .next t) :
    (∃ f, t = raise f (encode i) s) ∨
    (OnlyChanges [.pc, .mem] s t ∧ (∀ z, t.reg z = s.reg z) ∧
      ∀ a, ¬ (base s ≤ a ∧ a < base s + bs.length) → t.byteAt a = s.byteAt a) := by
  obtain ⟨f, -, rfl⟩ | ⟨-, rfl⟩ := settle_next h
  · exact .inl ⟨f, rfl⟩
  · refine .inr ⟨onlyChanges_of_eq_takeParts rfl, fun _ => rfl, fun a ha => ?_⟩
    exact byteAt_putBytes_outside (advance s) bs (by omega)

/-- Every instruction faults or completes. -/
theorem fault_or_completes {i : Instr} {s t : State} (h : exec i s = .next t) :
    (∃ f, t = raise f (encode i) s) ∨ Completes i s t := by
  cases i with
  | ret =>
    obtain rfl | ⟨a, rest, -, rfl⟩ := execRet_next h
    · exact .inl ⟨_, rfl⟩
    · exact .inr (completes_of_eq_takeParts rfl (by simp [writtenParts]) (by simp [writtenParts]))
  | call nnn =>
    obtain rfl | ⟨-, rfl⟩ := execCall_next h
    · exact .inl ⟨_, rfl⟩
    · exact .inr (completes_of_eq_takeParts rfl (by simp [writtenParts]) (by simp [writtenParts]))
  | cls | jp | jpV0 | seImm | sneImm | seReg | sneReg | skp | sknp | ldI | addI | ldFont | ldKey | ldToDT | ldToST =>
    cases h
    exact .inr (completes_of_eq_takeParts rfl (by simp [writtenParts]) (by simp [writtenParts]))
  | ldImm | addImm | ldReg | orReg | andReg | xorReg | rnd | ldFromDT =>
    cases h
    exact .inr ⟨onlyChanges_of_eq_takeParts rfl, fun _ hz => reg_setV_ne _ (advance s) hz, fun _ _ => rfl⟩
  | addReg | sub | shr | subn | shl =>
    cases h
    exact .inr ⟨onlyChanges_of_eq_takeParts rfl, fun _ hz => reg_setFlagThenResult_ne _ _ (advance s) hz,
      fun _ _ => rfl⟩
  | drw x y n =>
    obtain ⟨f, -, rfl⟩ | ⟨-, rfl⟩ := settle_next h
    · exact .inl ⟨f, rfl⟩
    · have hd := drawFrame_drawSprite (s.reg x) (s.reg y) (base s) n (advance s)
      exact .inr ⟨hd.onlyChanges, hd.1, fun a _ => hd.byteAt a⟩
  | load x =>
    obtain ⟨f, -, rfl⟩ | ⟨-, rfl⟩ := settle_next h
    · exact .inl ⟨f, rfl⟩
    · refine .inr ⟨onlyChanges_setBlock _ s, fun z hz => ?_, fun _ _ => setBlock_byteAt _ _ _⟩
      exact reg_setBlock_of_le (advance s) (by rw [length_memBlock]; exact Nat.lt_of_not_le hz)
  | ldBcd x => exact (fault_or_stores h).imp_right fun ⟨parts, regs, bytes⟩ => ⟨parts, fun z _ => regs z, bytes⟩
  | store x =>
    refine (fault_or_stores h).imp_right fun ⟨parts, regs, bytes⟩ => ⟨parts, fun z _ => regs z, ?_⟩
    rwa [length_regBlock] at bytes

/-- Settles O45: an instruction that faults halts the machine, every other completes. -/
theorem instructionsChangeOnlyTheirParts : Obligations.InstructionsChangeOnlyTheirParts := by
  intro i s t _ h hne
  obtain ⟨f, rfl⟩ | c := fault_or_completes h
  · exact absurd rfl hne
  · exact ⟨c.parts, c.bytes⟩

/-- Settles O46: a fault writes no register, an instruction that completes only its own. -/
theorem instructionsWriteOnlyTheirRegisters : Obligations.InstructionsWriteOnlyTheirRegisters := by
  intro i s t z h hz
  obtain ⟨f, rfl⟩ | c := fault_or_completes h
  · rfl
  · exact c.regs z hz

end Sys2Proof.Machine
end

section
/-! The family of 20_memory.md: the fetch below and above 0xFFE, and the read-only region 0x000-0x1FF, which no
instruction and no step stores to. -/

namespace Sys2Proof.Machine

/-! ### The fetch (R54, R57) -/

/-- R54 in numbers: the byte at the lower address counts 256-fold. -/
theorem toNat_wordOfBytes (hi lo : Byte) : (wordOfBytes hi lo).toNat = hi.toNat * 256 + lo.toNat := by
  rw [wordOfBytes, BitVec.toNat_append, ← Nat.shiftLeft_add_eq_or_of_lt lo.isLt, Nat.shiftLeft_eq]

theorem fetch_of_pc_le {s : State} (h : s.pc.toNat ≤ 0xFFE) :
    fetch s = some (wordOfBytes (s.byteAt s.pc.toNat) (s.byteAt (s.pc.toNat + 1))) :=
  if_neg (Nat.not_lt.2 h)

theorem fetch_of_pc_gt {s : State} (h : s.pc.toNat > 0xFFE) : fetch s = none := if_pos h

theorem fetchAndExec_of_fetch_none {s : State} (h : fetch s = none) :
    fetchAndExec s = .next (raise .fetchAddressFault s.pc s) := by
  simp [fetchAndExec, h]

/-- Fault entry halts the machine with the code of its cause, and keeps all else (R203). -/
theorem haltsWith_raise (f : Fault) (w : Word) (s : State) : HaltsWith (faultCode f).toNat w s (raise f w s) :=
  ⟨rfl, rfl, rfl, onlyChanges_of_eq_takeParts rfl⟩

/-- Settles O7: `fetch` branches on `pc`, and its failure is the fault entry with cause 4. -/
theorem fetchIsBigEndianOrFaults : Obligations.FetchIsBigEndianOrFaults := by
  intro s
  refine ⟨fun hle => ⟨_, fetch_of_pc_le hle, toNat_wordOfBytes _ _⟩, fun hgt => ?_⟩
  have hf := fetch_of_pc_gt hgt
  exact ⟨hf, _, fetchAndExec_of_fetch_none hf, haltsWith_raise .fetchAddressFault s.pc s⟩

/-! ### The read-only region (R52, R58) -/

/-- However an instruction ends, 0x000-0x1FF is as it was: stores that passed their checks start at 0x200. -/
theorem Ending.byteAt_reserved {i : Instr} {s t : State} (e : Ending i s t) {a : Nat} (ha : a ≤ 0x1FF) :
    t.byteAt a = s.byteAt a := by
  cases e with
  | data same _ => rw [State.byteAt, same.mem, State.byteAt]
  | store bs low _ => exact byteAt_putBytes_outside (advance s) bs (.inl (by omega))
  | fault _ | ret _ | call _ _ | wait _ _ => rfl

/-- A fetch and execution leaves 0x000-0x1FF as it was. -/
theorem fetchAndExec_byteAt_reserved {s t : State} (h : fetchAndExec s = .next t) {a : Nat} (ha : a ≤ 0x1FF) :
    t.byteAt a = s.byteAt a := by
  obtain ⟨-, rfl⟩ | ⟨w, r, -, -, rfl⟩ | ⟨w, i, -, -, hi⟩ := fetchAndExec_cases h
  · rfl
  · rfl
  · exact (ending_of_exec hi).byteAt_reserved ha

@[simp] theorem closeSlot_byteAt (s : State) (a : Nat) : (closeSlot s).byteAt a = s.byteAt a := by
  rw [closeSlot_eq]
  rfl

/-- Neither a wait that goes on nor a key that ends it touches memory (R210, R211). -/
theorem awaitStep_byteAt (s : State) (a : Nat) : (awaitStep s).byteAt a = s.byteAt a := by
  obtain h | ⟨k, h⟩ := awaitStep_cases s <;> rw [h]
  · rfl
  · rfl

/-- Settles O47: only the instruction of a cycle can store, and a store to the region would have faulted. -/
theorem reservedRegionNeverChanges : Obligations.ReservedRegionNeverChanges := by
  intro s t hstep a ha
  obtain ⟨-, u, hu, rfl⟩ | ⟨-, rfl⟩ | ⟨-, rfl⟩ := step_cases hstep
  · rw [closeSlot_byteAt, afterCycle_byteAt]
    exact fetchAndExec_byteAt_reserved hu ha
  · exact awaitStep_byteAt s a
  · rfl

end Sys2Proof.Machine
end

section
/-! The family of 30_encoding.md, the decoder and the encoder. A word decodes to an instruction exactly when it
selects the instruction's row and its fields are the operands (`decodeWord_eq_instr_iff`); every other word is
illegal in one of four families (`decodeWord_eq_illegal_iff`). -/

namespace Sys2Proof

/-! ### Fields, put back in their place (R71, R72) -/

/-- A field of a word, put back in its place, is the word with every other bit 0. -/
theorem placed_field (w : Word) (start len : Nat) :
    BitVec.ofNat 16 (w.extractLsb' start len).toNat <<< start =
      w &&& ((BitVec.allOnes len).setWidth 16 <<< start) := by
  ext k hk
  simp only [BitVec.ofNat_toNat, BitVec.getElem_shiftLeft, BitVec.getElem_and, BitVec.getElem_setWidth,
    BitVec.getLsbD_extractLsb', BitVec.getLsbD_allOnes]
  by_cases h : k < start
  · simp [h]
  · simp [h, Nat.add_sub_cancel' (Nat.le_of_not_lt h), hk, Bool.and_comm]

/-- The same for a field that ends at bit 0. -/
theorem low_field (w : Word) (len : Nat) :
    (w.extractLsb' 0 len).setWidth 16 = w &&& (BitVec.allOnes len).setWidth 16 := by
  simpa only [BitVec.shiftLeft_zero, BitVec.ofNat_toNat] using placed_field w 0 len

theorem shiftLeft_fieldOp (w : Word) : BitVec.ofNat 16 (fieldOp w) <<< 12 = w &&& 0xF000 := placed_field w 12 4
theorem placeX_fieldX (w : Word) : placeX (fieldX w) = w &&& 0x0F00 := placed_field w 8 4
theorem placeY_fieldY (w : Word) : placeY (fieldY w) = w &&& 0x00F0 := placed_field w 4 4
theorem ofNat_fieldN (w : Word) : BitVec.ofNat 16 (fieldN w) = w &&& 0x000F :=
  (BitVec.ofNat_toNat 16 _).trans (low_field w 4)
theorem setWidth_fieldKK (w : Word) : (fieldKK w).setWidth 16 = w &&& 0x00FF := low_field w 8
theorem setWidth_fieldNNN (w : Word) : (fieldNNN w).setWidth 16 = w &&& 0x0FFF := low_field w 12

/-! ### Fields as numbers -/

theorem fieldOp_eq_div (w : Word) : fieldOp w = w.toNat / 4096 := by
  have := w.isLt
  rw [fieldOp, BitVec.extractLsb'_toNat, Nat.shiftRight_eq_div_pow]
  omega

theorem fieldN_eq_mod (w : Word) : fieldN w = w.toNat % 16 := BitVec.extractLsb'_toNat 0 4 w

theorem toNat_fieldKK (w : Word) : (fieldKK w).toNat = w.toNat % 256 := BitVec.extractLsb'_toNat 0 8 w

/-- `op` has four bits. -/
theorem fieldOp_lt (w : Word) : fieldOp w < 16 := (w.extractLsb' 12 4).isLt

/-- `n` has four bits. -/
theorem fieldN_lt (w : Word) : fieldN w < 16 := (w.extractLsb' 0 4).isLt

/-! ### Fields of a word of which a masked part is known -/

/-- A field that lies inside a mask is decided by the masked word. -/
theorem extractLsb'_of_masked {w m p : Word} {start len : Nat} (h : w &&& m = p)
    (hm : m.extractLsb' start len = BitVec.allOnes len) :
    w.extractLsb' start len = p.extractLsb' start len := by
  rw [← h, BitVec.extractLsb'_and, hm, BitVec.and_allOnes]

theorem fieldOp_of_masked {w m p : Word} (h : w &&& m = p) (hm : m.extractLsb' 12 4 = BitVec.allOnes 4) :
    fieldOp w = fieldOp p := congrArg BitVec.toNat (extractLsb'_of_masked h hm)

theorem fieldN_of_masked {w m p : Word} (h : w &&& m = p) (hm : m.extractLsb' 0 4 = BitVec.allOnes 4) :
    fieldN w = fieldN p := congrArg BitVec.toNat (extractLsb'_of_masked h hm)

theorem fieldKK_of_masked {w m p : Word} (h : w &&& m = p) (hm : m.extractLsb' 0 8 = BitVec.allOnes 8) :
    fieldKK w = fieldKK p := extractLsb'_of_masked h hm

theorem fieldX_eq_iff {w : Word} {x : RegIx} : fieldX w = x ↔ w &&& 0x0F00 = placeX x := by
  have hinj : ∀ x y, placeX x = placeX y → x = y := by decide
  rw [← placeX_fieldX]
  exact ⟨congrArg placeX, hinj _ _⟩

theorem fieldY_eq_iff {w : Word} {y : RegIx} : fieldY w = y ↔ w &&& 0x00F0 = placeY y := by
  have hinj : ∀ x y, placeY x = placeY y → x = y := by decide
  rw [← placeY_fieldY]
  exact ⟨congrArg placeY, hinj _ _⟩

theorem fieldN_eq_iff {w : Word} {n : Nat} (hn : n ≤ 15) : fieldN w = n ↔ w &&& 0x000F = BitVec.ofNat 16 n := by
  rw [← ofNat_fieldN]
  refine ⟨congrArg _, fun h => ?_⟩
  have hlt := fieldN_lt w
  have := congrArg BitVec.toNat h
  simp only [BitVec.toNat_ofNat] at this
  omega

theorem fieldKK_eq_iff {w : Word} {kk : Byte} : fieldKK w = kk ↔ w &&& 0x00FF = kk.setWidth 16 := by
  rw [← setWidth_fieldKK]
  refine ⟨congrArg _, fun h => ?_⟩
  simpa using congrArg (BitVec.setWidth 8) h

theorem fieldNNN_eq_iff {w : Word} {nnn : Addr12} : fieldNNN w = nnn ↔ w &&& 0x0FFF = nnn.setWidth 16 := by
  rw [← setWidth_fieldNNN]
  refine ⟨congrArg _, fun h => ?_⟩
  simpa using congrArg (BitVec.setWidth 12) h

/-! ### The instruction of a row with the operands of a word -/

/-- The instruction of the same row as `i` whose operands are the fields of `w` (R72, R75). -/
def Instr.readOperands (w : Word) : Instr → Instr
  | .cls => .cls
  | .ret => .ret
  | .jp _ => .jp (fieldNNN w)
  | .call _ => .call (fieldNNN w)
  | .seImm _ _ => .seImm (fieldX w) (fieldKK w)
  | .sneImm _ _ => .sneImm (fieldX w) (fieldKK w)
  | .seReg _ _ => .seReg (fieldX w) (fieldY w)
  | .ldImm _ _ => .ldImm (fieldX w) (fieldKK w)
  | .addImm _ _ => .addImm (fieldX w) (fieldKK w)
  | .ldReg _ _ => .ldReg (fieldX w) (fieldY w)
  | .orReg _ _ => .orReg (fieldX w) (fieldY w)
  | .andReg _ _ => .andReg (fieldX w) (fieldY w)
  | .xorReg _ _ => .xorReg (fieldX w) (fieldY w)
  | .addReg _ _ => .addReg (fieldX w) (fieldY w)
  | .sub _ _ => .sub (fieldX w) (fieldY w)
  | .shr _ => .shr (fieldX w)
  | .subn _ _ => .subn (fieldX w) (fieldY w)
  | .shl _ => .shl (fieldX w)
  | .sneReg _ _ => .sneReg (fieldX w) (fieldY w)
  | .ldI _ => .ldI (fieldNNN w)
  | .jpV0 _ => .jpV0 (fieldNNN w)
  | .rnd _ _ => .rnd (fieldX w) (fieldKK w)
  | .drw _ _ _ => .drw (fieldX w) (fieldY w) (fieldN w)
  | .skp _ => .skp (fieldX w)
  | .sknp _ => .sknp (fieldX w)
  | .ldFromDT _ => .ldFromDT (fieldX w)
  | .ldKey _ => .ldKey (fieldX w)
  | .ldToDT _ => .ldToDT (fieldX w)
  | .ldToST _ => .ldToST (fieldX w)
  | .addI _ => .addI (fieldX w)
  | .ldFont _ => .ldFont (fieldX w)
  | .ldBcd _ => .ldBcd (fieldX w)
  | .store _ => .store (fieldX w)
  | .load _ => .load (fieldX w)

@[simp] theorem opcodeRow_readOperands (i : Instr) (w : Word) : opcodeRow (i.readOperands w) = opcodeRow i := by
  cases i <;> rfl

theorem wf_readOperands (i : Instr) (w : Word) : (i.readOperands w).wf = true := by
  cases i with
  | drw x y n => exact decide_eq_true (Nat.le_of_lt_succ (fieldN_lt w))
  | _ => rfl

/-- The operand bits read from a word are its examined bits outside the mask of the row. -/
theorem operandBits_readOperands (i : Instr) (w : Word) :
    operandBits (i.readOperands w) = w &&& (examinedBits i &&& ~~~(opcodeRow i).mask) := by
  cases i <;>
    simp only [Instr.readOperands, operandBits, examinedBits, opcodeRow, placeX_fieldX, placeY_fieldY, ofNat_fieldN,
      setWidth_fieldKK, setWidth_fieldNNN, ← BitVec.and_or_distrib_left]
  case cls | ret => exact BitVec.and_zero.symm
  all_goals rfl

/-- The bits that an instruction examines are those of its row's mask and those outside it. -/
theorem mask_or_examinedBits (i : Instr) :
    (opcodeRow i).mask ||| examinedBits i &&& ~~~(opcodeRow i).mask = examinedBits i := by
  cases i <;> simp only [opcodeRow, examinedBits] <;> decide

theorem selects_iff {r : OpcodeRow} {w : Word} : r.selects w = true ↔ w &&& r.mask = r.pattern := beq_iff_eq

theorem encode_readOperands {i : Instr} {w : Word} (h : (opcodeRow i).selects w = true) :
    encode (i.readOperands w) = w &&& examinedBits i := by
  rw [encode, opcodeRow_readOperands, operandBits_readOperands, ← selects_iff.1 h, ← BitVec.and_or_distrib_left,
    mask_or_examinedBits]

/-! ### The families of the decoder (R75) -/

theorem decodeWord_of_op_8 {w : Word} (h : fieldOp w = 0x8) : decodeWord w = decode8 w := by
  simp only [decodeWord, h]

theorem decodeWord_of_op_E {w : Word} (h : fieldOp w = 0xE) : decodeWord w = decodeE w := by
  simp only [decodeWord, h]

theorem decodeWord_of_op_F {w : Word} (h : fieldOp w = 0xF) : decodeWord w = decodeF w := by
  simp only [decodeWord, h]

/-! ### A word that selects a row decodes to an instruction of it (R75, R78) -/

theorem decodeWord_of_selects {i : Instr} {w : Word} (h : (opcodeRow i).selects w = true) :
    decodeWord w = .instr (i.readOperands w) := by
  have hp := selects_iff.1 h
  cases i <;> simp only [opcodeRow] at hp
  case cls | ret =>
    obtain rfl := (BitVec.and_allOnes (x := w)).symm.trans hp
    rfl
  case ldReg | orReg | andReg | xorReg | addReg | sub | shr | subn | shl =>
    rw [decodeWord_of_op_8 (fieldOp_of_masked hp rfl), decode8, fieldN_of_masked hp rfl]
    rfl
  case skp | sknp =>
    rw [decodeWord_of_op_E (fieldOp_of_masked hp rfl), decodeE, fieldKK_of_masked hp rfl]
    rfl
  case ldFromDT | ldKey | ldToDT | ldToST | addI | ldFont | ldBcd | store | load =>
    rw [decodeWord_of_op_F (fieldOp_of_masked hp rfl), decodeF, fieldKK_of_masked hp rfl]
    rfl
  case jp | call | seImm | sneImm | seReg | ldImm | addImm | sneReg | ldI | jpV0 | rnd | drw =>
    rw [decodeWord, fieldOp_of_masked hp rfl]
    rfl

/-! ### A word that decodes to an instruction selects its row and holds its operands -/

/-- The word selects the row of the instruction, and its fields are the instruction's operands. -/
structure Instr.StandsIn (i : Instr) (w : Word) : Prop where
  row : (opcodeRow i).selects w = true
  operands : i.readOperands w = i

/-- Mask 0xF000 examines `op`. -/
theorem selects_of_op {w : Word} {k : Nat} (hop : fieldOp w = k) :
    OpcodeRow.selects ⟨0xF000, BitVec.ofNat 16 k <<< 12⟩ w = true := by
  rw [selects_iff, ← hop]
  exact (shiftLeft_fieldOp w).symm

/-- Mask 0xF00F examines `op` and `n`. -/
theorem selects_of_op_n {w : Word} {k n : Nat} (hop : fieldOp w = k) (hn : fieldN w = n) :
    OpcodeRow.selects ⟨0xF00F, BitVec.ofNat 16 k <<< 12 ||| BitVec.ofNat 16 n⟩ w = true := by
  rw [selects_iff, ← hop, ← hn, shiftLeft_fieldOp, ofNat_fieldN, ← BitVec.and_or_distrib_left]
  rfl

/-- Mask 0xF0FF examines `op` and `kk`. -/
theorem selects_of_op_kk {w : Word} {k b : Nat} (hop : fieldOp w = k) (hkk : (fieldKK w).toNat = b) :
    OpcodeRow.selects ⟨0xF0FF, BitVec.ofNat 16 k <<< 12 ||| BitVec.ofNat 16 b⟩ w = true := by
  rw [selects_iff, ← hop, ← hkk, shiftLeft_fieldOp, BitVec.ofNat_toNat, setWidth_fieldKK,
    ← BitVec.and_or_distrib_left]
  rfl

theorem standsIn_of_decode0 {w : Word} {i : Instr} (h : decode0 w = .instr i) : i.StandsIn w := by
  unfold decode0 at h
  split at h
  · next hw =>
    cases h
    exact ⟨by rw [hw]; rfl, rfl⟩
  · split at h
    · next hw =>
      cases h
      exact ⟨by rw [hw]; rfl, rfl⟩
    · cases h

theorem standsIn_of_decode8 {w : Word} {i : Instr} (hop : fieldOp w = 0x8) (h : decode8 w = .instr i) :
    i.StandsIn w := by
  unfold decode8 at h
  split at h <;> cases h
  all_goals
    next hn =>
      have hrow := selects_of_op_n hop hn
      exact ⟨hrow, rfl⟩

theorem standsIn_of_decodeE {w : Word} {i : Instr} (hop : fieldOp w = 0xE) (h : decodeE w = .instr i) :
    i.StandsIn w := by
  unfold decodeE at h
  split at h <;> cases h
  all_goals
    next hkk =>
      have hrow := selects_of_op_kk hop hkk
      exact ⟨hrow, rfl⟩

theorem standsIn_of_decodeF {w : Word} {i : Instr} (hop : fieldOp w = 0xF) (h : decodeF w = .instr i) :
    i.StandsIn w := by
  unfold decodeF at h
  split at h <;> cases h
  all_goals
    next hkk =>
      have hrow := selects_of_op_kk hop hkk
      exact ⟨hrow, rfl⟩

/-- The decoder reads families 0, 8, E and F further; in every other one the word is an instruction. -/
theorem decodeWord_cases (w : Word) :
    (fieldOp w = 0x0 ∧ decodeWord w = decode0 w) ∨ (fieldOp w = 0x8 ∧ decodeWord w = decode8 w) ∨
    (fieldOp w = 0xE ∧ decodeWord w = decodeE w) ∨ (fieldOp w = 0xF ∧ decodeWord w = decodeF w) ∨
    (fieldOp w ∉ [0x0, 0x8, 0xE, 0xF] ∧ ∃ i, decodeWord w = .instr i ∧ i.StandsIn w) := by
  have hlt := fieldOp_lt w
  unfold decodeWord
  split
  case h_1 hop => exact .inl ⟨hop, rfl⟩
  case h_9 hop => exact .inr (.inl ⟨hop, rfl⟩)
  case h_15 hop => exact .inr (.inr (.inl ⟨hop, rfl⟩))
  case h_16 => exact .inr (.inr (.inr (.inl ⟨by grind, rfl⟩)))
  all_goals
    next hop =>
      have hrow := selects_of_op hop
      exact .inr (.inr (.inr (.inr ⟨by simp [hop], _, rfl, hrow, rfl⟩)))

theorem standsIn_of_decodeWord {w : Word} {i : Instr} (h : decodeWord w = .instr i) : i.StandsIn w := by
  obtain ⟨-, hd⟩ | ⟨hop, hd⟩ | ⟨hop, hd⟩ | ⟨hop, hd⟩ | ⟨-, j, hd, hj⟩ := decodeWord_cases w
  · exact standsIn_of_decode0 (hd.symm.trans h)
  · exact standsIn_of_decode8 hop (hd.symm.trans h)
  · exact standsIn_of_decodeE hop (hd.symm.trans h)
  · exact standsIn_of_decodeF hop (hd.symm.trans h)
  · obtain rfl : j = i := by simpa [hd] using h
    exact hj

/-- Decoding, said once: the instruction whose row the word selects, with the operands that the word holds. -/
theorem decodeWord_eq_instr_iff {w : Word} {i : Instr} : decodeWord w = .instr i ↔ i.StandsIn w :=
  ⟨standsIn_of_decodeWord, fun h => by rw [decodeWord_of_selects h.row, h.operands]⟩

theorem Instr.StandsIn.wf {w : Word} {i : Instr} (h : i.StandsIn w) : i.wf = true := by
  rw [← h.operands, wf_readOperands]

theorem Instr.StandsIn.encode_eq {w : Word} {i : Instr} (h : i.StandsIn w) : encode i = w &&& examinedBits i := by
  rw [← encode_readOperands h.row, h.operands]

/-- Settles O2: the word holds the row's pattern and the operands, and of the other bits only ignored ones. -/
theorem decodedWordReencodes : Obligations.DecodedWordReencodes := fun _ _ h =>
  have hi := decodeWord_eq_instr_iff.1 h
  ⟨hi.wf, hi.encode_eq⟩

/-! ### The rows of the opcode map are disjoint (R78) -/

/-- A word that decodes to `i` selects no row of the map but that of `i`. -/
theorem selects_iff_of_decodeWord {w : Word} {i j : Instr} (h : decodeWord w = .instr i) :
    (opcodeRow j).selects w = true ↔ opcodeRow j = opcodeRow i := by
  constructor
  · intro hj
    obtain rfl : j.readOperands w = i := by simpa [decodeWord_of_selects hj] using h
    exact (opcodeRow_readOperands j w).symm
  · intro hj
    rw [hj]
    exact (standsIn_of_decodeWord h).row

theorem nodup_opcodeRows : opcodeRows.Nodup := by decide

theorem opcodeRow_mem_opcodeRows (i : Instr) : opcodeRow i ∈ opcodeRows := by
  cases i <;> simp only [opcodeRow] <;> decide

/-- Settles O4: a word that selects a row decodes to an instruction of it. -/
theorem everyWordSelectsItsRowAlone : Obligations.EveryWordSelectsItsRowAlone := by
  refine fun w => ⟨fun i hi => ?_, fun r hr => ?_⟩
  · have hsel : ∀ row ∈ opcodeRows, row.selects w = (row == opcodeRow i) := by
      intro row hrow
      obtain ⟨j, -, rfl⟩ := List.mem_map.1 hrow
      rw [Bool.eq_iff_iff, beq_iff_eq]
      exact selects_iff_of_decodeWord hi
    rw [List.filter_congr hsel, List.filter_beq, nodup_opcodeRows.count, if_pos (opcodeRow_mem_opcodeRows i)]
    rfl
  · refine List.filter_eq_nil_iff.2 fun row hrow hsel => ?_
    obtain ⟨j, -, rfl⟩ := List.mem_map.1 hrow
    simp [decodeWord_of_selects hsel] at hr

/-! ### The illegal words (R80) -/

theorem decode0_eq_illegal_iff {w : Word} {r : Reject} :
    decode0 w = .illegal r ↔ .family0 = r ∧ w ≠ 0x00E0 ∧ w ≠ 0x00EE := by
  unfold decode0
  split
  · next h => simp [h]
  · split
    · next h => simp [h]
    · next h0 h1 => simpa using fun _ => ⟨h0, h1⟩

theorem decode8_eq_illegal_iff {w : Word} {r : Reject} :
    decode8 w = .illegal r ↔ .family8 = r ∧ fieldN w ∈ [0x8, 0x9, 0xA, 0xB, 0xC, 0xD, 0xF] := by
  unfold decode8
  generalize hn : fieldN w = n
  have hlt : n < 16 := hn ▸ fieldN_lt w
  interval_cases n <;> simp

theorem decodeE_eq_illegal_iff {w : Word} {r : Reject} :
    decodeE w = .illegal r ↔ .familyE = r ∧ (fieldKK w).toNat ∉ [0x9E, 0xA1] := by
  unfold decodeE
  generalize (fieldKK w).toNat = b
  split
  case h_3 => simp_all
  all_goals simp

theorem decodeF_eq_illegal_iff {w : Word} {r : Reject} :
    decodeF w = .illegal r ↔
      .familyF = r ∧ (fieldKK w).toNat ∉ [0x07, 0x0A, 0x15, 0x18, 0x1E, 0x29, 0x33, 0x55, 0x65] := by
  unfold decodeF
  generalize (fieldKK w).toNat = b
  split
  case h_10 => simp_all
  all_goals simp

theorem decodeWord_eq_illegal_iff {w : Word} {r : Reject} : decodeWord w = .illegal r ↔
    (fieldOp w = 0x0 ∧ decode0 w = .illegal r) ∨ (fieldOp w = 0x8 ∧ decode8 w = .illegal r) ∨
    (fieldOp w = 0xE ∧ decodeE w = .illegal r) ∨ (fieldOp w = 0xF ∧ decodeF w = .illegal r) := by
  obtain ⟨hop, hd⟩ | ⟨hop, hd⟩ | ⟨hop, hd⟩ | ⟨hop, hd⟩ | ⟨hop, i, hd, -⟩ := decodeWord_cases w
  case inr.inr.inr.inr =>
    simp only [List.mem_cons, not_or] at hop
    simp [hd, hop]
  all_goals simp [hop, hd]

/-- Settles O3: the four families reject, each by its own set of function fields. -/
theorem illegalWordsAreTheFourSets : Obligations.IllegalWordsAreTheFourSets := by
  intro w
  have hop : w.toNat / 4096 = 0 ↔ w.toNat < 0x1000 := by omega
  simp [decodeWord_eq_illegal_iff, decode0_eq_illegal_iff, decode8_eq_illegal_iff, decodeE_eq_illegal_iff,
    decodeF_eq_illegal_iff, fieldOp_eq_div, fieldN_eq_mod, toNat_fieldKK, hop]

/-! ### Reading back what was encoded (R86)

The operand bits of an encoding lie each in its own field: masked to a field, they are the operand in its place or
0, and so are the bits of the row's pattern. -/

theorem placeX_masked (x : RegIx) : placeX x &&& 0x0F00#16 = placeX x ∧ placeX x &&& 0x00F0#16 = 0 ∧
    placeX x &&& 0x000F#16 = 0 ∧ placeX x &&& 0x00FF#16 = 0 := by
  revert x
  decide

theorem placeY_masked (y : RegIx) :
    placeY y &&& 0x0F00#16 = 0 ∧ placeY y &&& 0x00F0#16 = placeY y ∧ placeY y &&& 0x000F#16 = 0 := by
  revert y
  decide

theorem height_masked {n : Nat} (hn : n ≤ 15) :
    BitVec.ofNat 16 n &&& 0x0F00#16 = 0 ∧ BitVec.ofNat 16 n &&& 0x00F0#16 = 0 ∧
      BitVec.ofNat 16 n &&& 0x000F#16 = BitVec.ofNat 16 n := by
  interval_cases n <;> decide

/-- A zero-extended immediate has the bits of a mask that lie in its width. -/
theorem setWidth_and {v : Nat} (b : BitVec v) (m : Word) :
    b.setWidth 16 &&& m = (b &&& m.setWidth v).setWidth 16 := by
  ext k hk
  by_cases hkv : k < v
  · simp [hkv, hk]
  · simp [BitVec.getLsbD_of_ge b k (Nat.le_of_not_lt hkv)]

theorem immByte_masked (kk : Byte) :
    kk.setWidth 16 &&& 0x0F00#16 = 0 ∧ kk.setWidth 16 &&& 0x00FF#16 = kk.setWidth 16 := by
  rw [setWidth_and, setWidth_and]
  exact ⟨congrArg _ BitVec.and_zero, congrArg _ BitVec.and_allOnes⟩

theorem immAddr_masked (nnn : Addr12) : nnn.setWidth 16 &&& 0x0FFF#16 = nnn.setWidth 16 := by
  rw [setWidth_and]
  exact congrArg _ BitVec.and_allOnes

/-- The laws of `EncodeSelectsRow`, for every instruction. -/
theorem selects_encode : ∀ i : Instr, Laws.EncodeSelectsRow.Statement i
  | .cls => Laws.EncodeSelectsRow.cls
  | .ret => Laws.EncodeSelectsRow.ret
  | .jp nnn => Laws.EncodeSelectsRow.jp nnn
  | .call nnn => Laws.EncodeSelectsRow.call nnn
  | .seImm x kk => Laws.EncodeSelectsRow.seImm x kk
  | .sneImm x kk => Laws.EncodeSelectsRow.sneImm x kk
  | .seReg x y => Laws.EncodeSelectsRow.seReg x y
  | .ldImm x kk => Laws.EncodeSelectsRow.ldImm x kk
  | .addImm x kk => Laws.EncodeSelectsRow.addImm x kk
  | .ldReg x y => Laws.EncodeSelectsRow.ldReg x y
  | .orReg x y => Laws.EncodeSelectsRow.orReg x y
  | .andReg x y => Laws.EncodeSelectsRow.andReg x y
  | .xorReg x y => Laws.EncodeSelectsRow.xorReg x y
  | .addReg x y => Laws.EncodeSelectsRow.addReg x y
  | .sub x y => Laws.EncodeSelectsRow.sub x y
  | .shr x => Laws.EncodeSelectsRow.shr x
  | .subn x y => Laws.EncodeSelectsRow.subn x y
  | .shl x => Laws.EncodeSelectsRow.shl x
  | .sneReg x y => Laws.EncodeSelectsRow.sneReg x y
  | .ldI nnn => Laws.EncodeSelectsRow.ldI nnn
  | .jpV0 nnn => Laws.EncodeSelectsRow.jpV0 nnn
  | .rnd x kk => Laws.EncodeSelectsRow.rnd x kk
  | .drw x y n => Laws.EncodeSelectsRow.drw x y n
  | .skp x => Laws.EncodeSelectsRow.skp x
  | .sknp x => Laws.EncodeSelectsRow.sknp x
  | .ldFromDT x => Laws.EncodeSelectsRow.ldFromDT x
  | .ldKey x => Laws.EncodeSelectsRow.ldKey x
  | .ldToDT x => Laws.EncodeSelectsRow.ldToDT x
  | .ldToST x => Laws.EncodeSelectsRow.ldToST x
  | .addI x => Laws.EncodeSelectsRow.addI x
  | .ldFont x => Laws.EncodeSelectsRow.ldFont x
  | .ldBcd x => Laws.EncodeSelectsRow.ldBcd x
  | .store x => Laws.EncodeSelectsRow.store x
  | .load x => Laws.EncodeSelectsRow.load x

/-- Each field of the encoding, masked, is the operand in its place. -/
theorem readOperands_encode {i : Instr} (h : i.wf = true) : i.readOperands (encode i) = i := by
  cases i <;> simp only [Instr.readOperands, encode, opcodeRow, operandBits]
  case drw x y n =>
    have hn : n ≤ 15 := of_decide_eq_true h
    simp [fieldX_eq_iff, fieldY_eq_iff, fieldN_eq_iff hn, BitVec.and_or_distrib_right, placeX_masked, placeY_masked,
      height_masked hn]
  case jp | call | ldI | jpV0 =>
    simp [fieldNNN_eq_iff, BitVec.and_or_distrib_right, immAddr_masked]
  case seImm | sneImm | ldImm | addImm | rnd =>
    simp [fieldX_eq_iff, fieldKK_eq_iff, BitVec.and_or_distrib_right, placeX_masked, immByte_masked]
  all_goals
    simp [fieldX_eq_iff, fieldY_eq_iff, BitVec.and_or_distrib_right, placeX_masked, placeY_masked]

/-- Settles O1: the word of an instruction selects its row and holds its operands. -/
theorem decodeOfEncodeIsInstr : Obligations.DecodeOfEncodeIsInstr := fun i h =>
  decodeWord_eq_instr_iff.2 ⟨selects_encode i h, readOperands_encode h⟩

/-- Settles O5: nine of the words are encodings (O1), and 0000 is outside them. -/
theorem sampleWordsDecode : Obligations.SampleWordsDecode :=
  ⟨decodeOfEncodeIsInstr (.addReg 3 7) rfl, decodeOfEncodeIsInstr (.drw 1 2 5) rfl,
    decodeOfEncodeIsInstr (.ldImm 0 0x0A) rfl, decodeOfEncodeIsInstr (.addImm 0 0x05) rfl,
    decodeOfEncodeIsInstr .cls rfl, decodeOfEncodeIsInstr .ret rfl, decodeOfEncodeIsInstr (.jp 0xABC) rfl,
    decodeOfEncodeIsInstr (.skp 15) rfl, decodeOfEncodeIsInstr (.store 2) rfl,
    decodeWord_eq_illegal_iff.2 (.inl ⟨rfl, decode0_eq_illegal_iff.2 (by decide)⟩)⟩

end Sys2Proof

namespace Sys2Proof.Machine

/-! ### The cycle of a decoded word and of an illegal one (R76, R80) -/

theorem fetchAndExec_of_instr {s : State} {w : Word} {i : Instr} (hf : fetch s = some w)
    (hd : decodeWord w = .instr i) : fetchAndExec s = exec i s := by
  simp only [fetchAndExec, hf, decodeAndExec, hd]

theorem fetchAndExec_of_illegal {s : State} {w : Word} {r : Reject} (hf : fetch s = some w)
    (hd : decodeWord w = .illegal r) : fetchAndExec s = .next (raise .illegalInstruction w s) := by
  simp only [fetchAndExec, hf, decodeAndExec, hd]

theorem thenApply_thenApply (o : Host.Outcome State Fault Refusal) (f g : State → State) :
    thenApply (thenApply o f) g = thenApply o (fun t => g (f t)) := by
  cases o <;> rfl

/-- A step of a running machine, whatever the fetch and execution answers. -/
theorem step_eq_of_running {s : State} (hs : s.mode = .running) :
    step s = thenApply (fetchAndExec s) (fun t => closeSlot (afterCycle t)) := by
  simp only [step, hs, runningStep, cycle, thenApply_thenApply]

/-- Settles O6: at such a `pc` the fetch gives the word of the two bytes, and a word that decodes is one of a
well-formed instruction. -/
theorem stepRunsDecodedInstruction : Obligations.StepRunsDecodedInstruction := by
  intro s i hs hpc hbytes
  have hd : decodeWord (wordOfBytes (s.byteAt s.pc.toNat) (s.byteAt (s.pc.toNat + 1))) = .instr i :=
    congrArg Prod.fst hbytes
  refine ⟨(decodedWordReencodes _ i hd).1, ?_⟩
  rw [step_eq_of_running hs, fetchAndExec_of_instr (fetch_of_pc_le hpc) hd]

/-- Settles O8: an illegal word enters the fault with cause 1. -/
theorem illegalWordHaltsWithItself : Obligations.IllegalWordHaltsWithItself := fun s w _ hf hd =>
  ⟨_, fetchAndExec_of_illegal hf hd, haltsWith_raise .illegalInstruction w s⟩

end Sys2Proof.Machine
end

section
/-! The family of 40_control_and_immediate.md (with the register skip of R140): what CLS, RET, JP, CALL, the
skips and the immediate moves do to `pc`, stack, display and registers, and that they leave the rest alone. -/

namespace Sys2Proof.Machine

/-! ### Return and call, by the state of the stack (R28, R29) -/

theorem exec_ret_of_cons {s : State} {a : Word} {rest : List Word} (h : s.stack = a :: rest) :
    exec .ret s = .next (popTo a rest (advance s)) := by
  simp only [exec, execRet, h]

theorem exec_ret_of_nil {s : State} (h : s.stack = []) :
    exec .ret s = .next (raise .stackUnderflow (encode .ret) s) := by
  simp only [exec, execRet, h]

theorem stackFull_eq_false {s : State} (h : Config.stackDepth ≠ some s.stack.length) : stackFull s = false :=
  Bool.eq_false_iff.2 (mt (stackFull_iff s).1 h)

theorem exec_call_of_room {nnn : Addr12} {s : State} (h : stackFull s = false) :
    exec (.call nnn) s = .next (setPc (immAddr nnn) (push (s.pc + 2) (advance s))) := by
  simp only [exec, execCall, h, advance_pc]

theorem exec_call_of_full {nnn : Addr12} {s : State} (h : stackFull s = true) :
    exec (.call nnn) s = .next (raise .stackOverflow (encode (.call nnn)) s) := by
  simp only [exec, execCall, h]

/-! ### Targets of `pc` -/

/-- An immediate address is zero-extended (R73). -/
@[simp] theorem toNat_immAddr (nnn : Addr12) : (immAddr nnn).toNat = nnn.toNat :=
  BitVec.toNat_setWidth_of_le (by decide)

/-- A skip moves `pc` two words on if its condition holds and one word otherwise (R104). -/
theorem pc_skipIf_advance (p : Prop) [Decidable p] (s : State) :
    (skipIf (decide p) (advance s)).pc = if p then s.pc + 4 else s.pc + 2 := by
  by_cases hp : p
  · simp [hp, BitVec.add_assoc]
  · simp [hp]

/-- A skip on the negation of a condition: two words on if the condition fails (R105). -/
theorem pc_skipIf_not_advance (p : Prop) [Decidable p] (s : State) :
    (skipIf (decide (¬ p)) (advance s)).pc = if p then s.pc + 2 else s.pc + 4 := by
  rw [pc_skipIf_advance, ite_not]

theorem onlyChanges_skipIf (c : Bool) (s : State) : OnlyChanges [.pc] s (skipIf c (advance s)) :=
  onlyChanges_of_eq_takeParts rfl

/-! ### Register writes -/

theorem onlyChanges_setV (x : RegIx) (b : Byte) (s : State) : OnlyChanges [.pc, .regs] s (setV x b (advance s)) :=
  onlyChanges_of_eq_takeParts rfl

/-! ### The statements -/

/-- Settles O15. -/
theorem clsClearsTheDisplay : Obligations.ClsClearsTheDisplay := fun s =>
  ⟨dispClear (advance s), rfl, rfl, pixel_dispClear _, onlyChanges_of_eq_takeParts rfl⟩

/-- Settles O16: RET branches on the stack, and its failure is the fault entry with cause 2. -/
theorem retPopsOrUnderflows : Obligations.RetPopsOrUnderflows := fun s =>
  ⟨fun _ _ hs => ⟨_, exec_ret_of_cons hs, rfl, rfl, onlyChanges_of_eq_takeParts rfl⟩,
    fun hs => ⟨_, exec_ret_of_nil hs, haltsWith_raise .stackUnderflow (encode .ret) s⟩⟩

/-- Settles O17. -/
theorem jpSetsPc : Obligations.JpSetsPc := fun nnn s =>
  ⟨setPc (immAddr nnn) (advance s), rfl, toNat_immAddr nnn, onlyChanges_of_eq_takeParts rfl⟩

/-- Settles O19: CALL branches on `stackFull`, and its failure is the fault entry with cause 3. -/
theorem callPushesOrOverflows : Obligations.CallPushesOrOverflows := by
  intro nnn s
  refine ⟨fun hroom => ?_, fun hfull => ?_⟩
  · exact ⟨_, exec_call_of_room (stackFull_eq_false hroom), rfl, toNat_immAddr nnn, onlyChanges_of_eq_takeParts rfl⟩
  · exact ⟨_, exec_call_of_full ((stackFull_iff s).2 hfull), haltsWith_raise .stackOverflow (encode (.call nnn)) s⟩

/-- Settles O20. -/
theorem immediateSkips : Obligations.ImmediateSkips := fun x kk s =>
  ⟨⟨_, rfl, pc_skipIf_advance (s.reg x = kk) s, onlyChanges_skipIf _ s⟩,
    ⟨_, rfl, pc_skipIf_not_advance (s.reg x = kk) s, onlyChanges_skipIf _ s⟩⟩

/-- Settles O21. -/
theorem registerSkips : Obligations.RegisterSkips := fun x y s =>
  ⟨⟨_, rfl, pc_skipIf_advance (s.reg x = s.reg y) s, onlyChanges_skipIf _ s⟩,
    ⟨_, rfl, pc_skipIf_not_advance (s.reg x = s.reg y) s, onlyChanges_skipIf _ s⟩⟩

/-- Settles O22: both write one register of the advanced state. -/
theorem immediateLoadAndAdd : Obligations.ImmediateLoadAndAdd := by
  intro x kk s
  have others (b : Byte) : ∀ z, z ≠ x → (setV x b (advance s)).reg z = s.reg z :=
    fun _ hz => reg_setV_ne b (advance s) hz
  refine ⟨⟨_, rfl, rfl, reg_setV_self x kk _, others _, onlyChanges_setV x _ s⟩,
    ⟨_, rfl, rfl, ?_, others _, onlyChanges_setV x _ s⟩⟩
  rw [reg_setV_self, BitVec.toNat_add]

/-- Settles O23: the entry that RET pops (O16) is the one that CALL pushed (O19). -/
theorem callThenRetReturns : Obligations.CallThenRetReturns := by
  intro nnn s t u hroom hcall hstack
  obtain ⟨t', ht', hpushed, -, -⟩ := (callPushesOrOverflows nnn s).1 hroom
  obtain rfl : t = t' := by simpa [hcall] using ht'
  obtain ⟨w, hw, hpc, hrest, -⟩ := (retPopsOrUnderflows u).1 _ _ (hstack.trans hpushed)
  exact ⟨w, hw, hpc, hrest⟩

end Sys2Proof.Machine
end

section
/-! The family of 41_alu.md: what the register-register ALU does to `V[x]` and `VF`, that it leaves the rest alone,
and the laws that its operations obey together (R130). -/

namespace Sys2Proof.Machine

/-! ### The values of the flags (R125 to R129) -/

theorem toNat_flagOf (p : Prop) [Decidable p] : (flagOf (decide p)).toNat = if p then 1 else 0 := by
  by_cases hp : p <;> simp [flagOf, hp]

theorem toNat_carryFlag (a b : Byte) : (carryFlag a b).toNat = if a.toNat + b.toNat > 255 then 1 else 0 :=
  toNat_flagOf _

theorem toNat_greaterFlag (a b : Byte) : (greaterFlag a b).toNat = if a.toNat > b.toNat then 1 else 0 :=
  toNat_flagOf _

theorem toNat_lowBitFlag (a : Byte) : (lowBitFlag a).toNat = a.toNat % 2 :=
  (BitVec.toNat_and a 1).trans (Nat.and_one_is_mod _)

/-- The mask 0x80 picks out the sign bit, which is 1 exactly from 128 on (R129). -/
theorem toNat_highBitFlag (a : Byte) : (highBitFlag a).toNat = if a.toNat ≥ 128 then 128 else 0 := by
  have hmask : highBitFlag a = if a.getLsbD 7 then BitVec.twoPow 8 7 else 0 := BitVec.and_twoPow a 7
  have hbit : a.getLsbD 7 = decide (128 ≤ a.toNat) := BitVec.msb_eq_decide a
  rw [hmask, hbit]
  by_cases h : 128 ≤ a.toNat <;> simp [h]

/-! ### The results, as numbers -/

/-- A byte difference is the difference of the integers modulo 256 (R126, R128). -/
theorem toNat_byte_sub (a b : Byte) : ((a - b).toNat : Int) = ((a.toNat : Int) - (b.toNat : Int)) % 256 := by
  have := b.isLt
  rw [BitVec.toNat_sub]
  omega

theorem toNat_byte_half (a : Byte) : (a >>> 1).toNat = a.toNat / 2 := by
  rw [BitVec.toNat_ushiftRight, Nat.shiftRight_eq_div_pow, Nat.pow_one]

theorem toNat_byte_double (a : Byte) : (a <<< 1).toNat = 2 * a.toNat % 256 := by
  rw [BitVec.toNat_shiftLeft, Nat.shiftLeft_eq, Nat.pow_one, Nat.mul_comm]

/-- Halving undoes doubling exactly when the doubling lost no bit (R130). -/
theorem byte_half_double_eq_iff (a : Byte) : a <<< 1 >>> 1 = a ↔ a.toNat < 128 := by
  rw [← BitVec.toNat_inj, toNat_byte_half, toNat_byte_double]
  have := a.isLt
  omega

/-! ### The effect of a flag-defining operation (R120, R131) -/

@[simp] theorem reg_setFlagThenResult_self (x : RegIx) (flag result : Byte) (s : State) :
    (setFlagThenResult x flag result s).reg x = result :=
  reg_setV_self x result _

theorem reg_setFlagThenResult_vf {x : RegIx} (flag result : Byte) (s : State) (h : x ≠ vf) :
    (setFlagThenResult x flag result s).reg vf = flag := by
  rw [reg_setFlagThenResult, if_neg h.symm, if_pos rfl]

/-- What an operation that ends in the flag and result writes leaves: a property `R` of the result is one of `V[x]`,
a property `F` of the flag is one of `VF` unless `x` is `VF`, and nothing else but `pc` changes. -/
theorem flagged_effect (i : Instr) (s : State) {x : RegIx} {flag result : Byte} {R F : Byte → Prop}
    (hexec : exec i s = .next (setFlagThenResult x flag result (advance s))) (hR : R result) (hF : F flag) :
    ∃ t, exec i s = .next t ∧ t.pc = s.pc + 2 ∧ R (t.reg x) ∧ (x ≠ vf → F (t.reg vf)) ∧
      (∀ z, z ≠ x → z ≠ vf → t.reg z = s.reg z) ∧ OnlyChanges [.pc, .regs] s t := by
  refine ⟨_, hexec, rfl, ?_, fun hx => ?_, fun z hzx hzf => ?_, onlyChanges_of_eq_takeParts rfl⟩
  · rwa [reg_setFlagThenResult_self]
  · rwa [reg_setFlagThenResult_vf flag result _ hx]
  · exact reg_setFlagThenResult_ne flag result (advance s) (not_or.2 ⟨hzx, hzf⟩)

/-! ### The statements -/

/-- Settles O24: each of the four writes one register of the advanced state. -/
theorem moveAndLogic : Obligations.MoveAndLogic := by
  intro x y s
  have others (b : Byte) : ∀ z, z ≠ x → (setV x b (advance s)).reg z = s.reg z :=
    fun _ hz => reg_setV_ne b (advance s) hz
  refine ⟨⟨_, rfl, rfl, reg_setV_self x _ _, others _, onlyChanges_setV x _ s⟩,
    ⟨_, rfl, rfl, fun k => ?_, others _, onlyChanges_setV x _ s⟩,
    ⟨_, rfl, rfl, fun k => ?_, others _, onlyChanges_setV x _ s⟩,
    ⟨_, rfl, rfl, fun k => ?_, others _, onlyChanges_setV x _ s⟩⟩
  · rw [reg_setV_self, BitVec.getLsbD_or]
  · rw [reg_setV_self, BitVec.getLsbD_and]
  · rw [reg_setV_self, BitVec.getLsbD_xor]

/-- Settles O25. -/
theorem addWritesSumAndCarry : Obligations.AddWritesSumAndCarry := fun x y s =>
  flagged_effect (.addReg x y) s (R := fun b => b.toNat = _) (F := fun b => b.toNat = _) rfl
    (BitVec.toNat_add _ _) (toNat_carryFlag _ _)

/-- Settles O26. -/
theorem subWritesDifferenceAndGreater : Obligations.SubWritesDifferenceAndGreater := fun x y s =>
  flagged_effect (.sub x y) s (R := fun b => (b.toNat : Int) = _) (F := fun b => b.toNat = _) rfl
    (toNat_byte_sub _ _) (toNat_greaterFlag _ _)

/-- Settles O27. -/
theorem subnWritesReverseDifference : Obligations.SubnWritesReverseDifference := fun x y s =>
  flagged_effect (.subn x y) s (R := fun b => (b.toNat : Int) = _) (F := fun b => b.toNat = _) rfl
    (toNat_byte_sub _ _) (toNat_greaterFlag _ _)

/-- Settles O28. -/
theorem shrHalvesAndKeepsLowBit : Obligations.ShrHalvesAndKeepsLowBit := fun x s =>
  flagged_effect (.shr x) s (R := fun b => b.toNat = _) (F := fun b => b.toNat = _) rfl
    (toNat_byte_half _) (toNat_lowBitFlag _)

/-- Settles O29. -/
theorem shlDoublesAndKeepsRawHighBit : Obligations.ShlDoublesAndKeepsRawHighBit := fun x s =>
  flagged_effect (.shl x) s (R := fun b => b.toNat = _) (F := fun b => b.toNat = _) rfl
    (toNat_byte_double _) (toNat_highBitFlag _)

/-- Settles O30: each law is one of the results that the two runs put in `V[x]`; where the second run reads `V[y]`
again, the first has left it, since `y` is neither `x` nor, for the sum, `VF`. -/
theorem aluRoundTrips : Obligations.AluRoundTrips := by
  intro x y s _ hxy
  refine ⟨?_, ?_, ?_, ?_⟩
  · rintro hy _ _ ⟨⟩ ⟨⟩
    rw [reg_setFlagThenResult_self, reg_setFlagThenResult_self,
      reg_setFlagThenResult_ne _ _ _ (not_or.2 ⟨hxy.symm, hy⟩), advance_reg, BitVec.add_sub_cancel]
  · rintro _ _ ⟨⟩ ⟨⟩
    rw [reg_setV_self, reg_setV_self, reg_setV_ne _ _ hxy.symm, advance_reg, BitVec.xor_assoc, BitVec.xor_self,
      BitVec.xor_zero]
  · rintro _ _ ⟨⟩ ⟨⟩
    rw [reg_setFlagThenResult_self, reg_setFlagThenResult_self, byte_half_double_eq_iff]
  · rintro _ _ ⟨⟩ ⟨⟩
    rw [reg_setFlagThenResult_self, reg_setFlagThenResult_self, sub_add_sub_cancel, sub_self]

end Sys2Proof.Machine
end

section
/-! The family of 42_compare_index_jump_random.md, with the writes of `I` of 45_timer_index_memory.md: the targets of
`pc` and `I` as natural numbers, and the random byte under its mask, each with nothing else changed. -/

namespace Sys2Proof.Machine

/-! ### Targets of `pc` and `I`, as natural numbers -/

/-- A byte and a 12-bit immediate add in 16 bits without a carry out, so the target is the plain sum (R142). -/
theorem toNat_indexedTarget (nnn : Addr12) (s : State) :
    (indexedTarget nnn s).toNat = (s.reg 0).toNat + nnn.toNat := by
  have hv := (s.reg 0).isLt
  have hn := nnn.isLt
  rw [indexedTarget, BitVec.toNat_add, toNat_immAddr, BitVec.toNat_setWidth_of_le (by decide)]
  omega

theorem toNat_indexPlus (a : Word) (b : Byte) : (indexPlus a b).toNat = (a.toNat + b.toNat) % 65536 := by
  rw [indexPlus, BitVec.toNat_add, BitVec.toNat_setWidth_of_le (by decide)]

/-- The highest glyph address, 5 * 255, fits in `I`: no byte wraps (R175). -/
theorem toNat_glyphAddr (b : Byte) : (glyphAddr b).toNat = b.toNat * 5 := by
  have hb := b.isLt
  exact (BitVec.toNat_ofNat _ _).trans (Nat.mod_eq_of_lt (show b.toNat * 5 < 2 ^ 16 by omega))

/-! ### A write of `I` -/

theorem onlyChanges_setI (a : Word) (s : State) : OnlyChanges [.pc, .idx] s (setI a (advance s)) :=
  onlyChanges_of_eq_takeParts rfl

/-! ### A masked byte -/

/-- No bit outside the mask is left (R143). -/
theorem byte_and_mask_and_not (b mask : Byte) : b &&& mask &&& ~~~mask = 0 := by
  rw [BitVec.and_assoc, BitVec.and_not_self]
  exact BitVec.and_zero

/-! ### The statements -/

/-- Settles O18: the target replaces the advanced `pc`, and 16 bits hold its sum. -/
theorem jpV0AddsInSixteenBits : Obligations.JpV0AddsInSixteenBits := fun nnn s =>
  ⟨setPc (indexedTarget nnn s) (advance s), rfl, toNat_indexedTarget nnn s, onlyChanges_of_eq_takeParts rfl⟩

/-- Settles O31: each of the three writes `I` of the advanced state. -/
theorem indexWrites : Obligations.IndexWrites := fun nnn x s =>
  ⟨⟨_, rfl, rfl, toNat_immAddr nnn, onlyChanges_setI _ s⟩,
    ⟨_, rfl, rfl, toNat_indexPlus s.idx (s.reg x), onlyChanges_setI _ s⟩,
    ⟨_, rfl, rfl, toNat_glyphAddr (s.reg x), onlyChanges_setI _ s⟩⟩

/-- Settles O32: RND writes one register of the advanced state, the random byte under the mask. -/
theorem rndMasksTheRandomByte : Obligations.RndMasksTheRandomByte := by
  intro x kk s
  have hres : (setV x (randomNow s &&& kk) (advance s)).reg x = randomNow s &&& kk := reg_setV_self x _ _
  refine ⟨_, rfl, rfl, hres, ?_, fun _ hz => reg_setV_ne _ (advance s) hz, onlyChanges_setV x _ s⟩
  rw [hres, byte_and_mask_and_not]

end Sys2Proof.Machine
end

section
/-! The family of 43_draw.md, with the block load of 45_timer_index_memory.md: reads past memory fault before any
effect; a draw composes, pixel by pixel and row by row, to the XOR of the display with the sprite's mask. -/

namespace Sys2Proof.Machine

/-! ### Reads past memory (R154, R178) -/

/-- A run of reads that is not empty and ends past memory reports `DataAddressFault`. -/
theorem firstFault_read_data {a n : Nat} (hn : 0 < n) (hend : 4096 < a + n) :
    firstFault readFault a n = some .dataAddressFault := by
  cases hf : firstFault readFault a n with
  | none =>
    have := firstFault_read_none.1 hf
    omega
  | some f => rw [(firstFault_read_some hf).1]

/-- An instruction whose checked reads end past memory enters the fault with cause 5. -/
theorem halts_of_read_past_memory {i : Instr} {s effect : State} {n : Nat} (hn : 0 < n)
    (hend : 0xFFF < s.idx.toNat + n - 1)
    (hexec : exec i s = settle (firstFault readFault (base s) n) i s effect) :
    ∃ t, exec i s = .next t ∧ HaltsWith 5 (encode i) s t := by
  have hfault : firstFault readFault (base s) n = some .dataAddressFault :=
    firstFault_read_data hn (show 4096 < s.idx.toNat + n by omega)
  rw [hfault, settle_some] at hexec
  exact ⟨_, hexec, haltsWith_raise .dataAddressFault (encode i) s⟩

/-- Settles O41: a block load checks `x + 1` reads, a draw `n`. -/
theorem readsFaultBeforeAnyEffect : Obligations.ReadsFaultBeforeAnyEffect := fun x y n _ =>
  ⟨fun hend => halts_of_read_past_memory (i := .load x) (Nat.succ_pos _) hend rfl,
    fun hn hend => halts_of_read_past_memory (i := .drw x y n) hn hend rfl⟩

/-! ### Drawing a mask (R152) -/

/-- A set of pixels of the display. -/
abbrev Mask := PixelX → PixelY → Prop

/-- Some pixel of the mask is on. -/
def Hits (m : Mask) (s : State) : Prop := ∃ px py, m px py ∧ s.pixel px py = true

/-- `t` is `s` with the pixels of the mask inverted, and `VF` set if one of them was on. -/
structure Draws (m : Mask) (s t : State) : Prop where
  frame : DrawFrame s t
  inside : ∀ px py, m px py → t.pixel px py = !s.pixel px py
  outside : ∀ px py, ¬ m px py → t.pixel px py = s.pixel px py
  hit : Hits m s → t.reg vf = 1
  miss : ¬ Hits m s → t.reg vf = s.reg vf

theorem Draws.empty {m : Mask} (h : ∀ px py, ¬ m px py) (s : State) : Draws m s s where
  frame := .refl s
  inside px py hm := absurd hm (h px py)
  outside _ _ _ := rfl
  hit := fun ⟨px, py, hm, _⟩ => absurd hm (h px py)
  miss _ := rfl

/-- The first draw leaves the pixels of a disjoint mask, so both draws together hit what the second hits alone. -/
theorem Draws.hits_iff {m₁ m₂ : Mask} {s t : State} (h : Draws m₁ s t) (hdisj : ∀ px py, m₁ px py → ¬ m₂ px py) :
    Hits m₂ t ↔ Hits m₂ s := by
  have hsame : ∀ px py, m₂ px py → t.pixel px py = s.pixel px py :=
    fun px py h2 => h.outside px py fun h1 => hdisj px py h1 h2
  constructor
  · rintro ⟨px, py, h2, hon⟩
    exact ⟨px, py, h2, hsame px py h2 ▸ hon⟩
  · rintro ⟨px, py, h2, hon⟩
    exact ⟨px, py, h2, (hsame px py h2).trans hon⟩

/-- A union of masks is hit iff one of them is. -/
theorem hits_or {m₁ m₂ : Mask} {s : State} :
    Hits (fun px py => m₁ px py ∨ m₂ px py) s ↔ Hits m₁ s ∨ Hits m₂ s := by
  simp only [Hits, or_and_right, exists_or]

/-- Draws of disjoint masks, one after the other, draw their union. -/
theorem Draws.trans {m₁ m₂ : Mask} {s t u : State} (h₁ : Draws m₁ s t) (h₂ : Draws m₂ t u)
    (hdisj : ∀ px py, m₁ px py → ¬ m₂ px py) : Draws (fun px py => m₁ px py ∨ m₂ px py) s u where
  frame := h₁.frame.trans h₂.frame
  inside px py hm := by
    obtain hm | hm := hm
    · rw [h₂.outside px py (hdisj px py hm), h₁.inside px py hm]
    · rw [h₂.inside px py hm, h₁.outside px py fun hm₁ => hdisj px py hm₁ hm]
  outside px py hm := by
    obtain ⟨hm₁, hm₂⟩ := not_or.1 hm
    rw [h₂.outside px py hm₂, h₁.outside px py hm₁]
  hit hhit := by
    by_cases hit₂ : Hits m₂ t
    · exact h₂.hit hit₂
    · have hit₁ : Hits m₁ s := (hits_or.1 hhit).resolve_right fun h => hit₂ ((h₁.hits_iff hdisj).2 h)
      rw [h₂.miss hit₂, h₁.hit hit₁]
  miss hmiss := by
    obtain ⟨miss₁, miss₂⟩ := not_or.1 (mt hits_or.2 hmiss)
    rw [h₂.miss fun h => miss₂ ((h₁.hits_iff hdisj).1 h), h₁.miss miss₁]

/-- A loop whose rounds draw pairwise disjoint masks draws the union of them. -/
theorem Draws.foldl_range {f : State → Nat → State} {m : Nat → Mask} {s : State} {n : Nat}
    (hround : ∀ k, k < n → ∀ t, DrawFrame s t → Draws (m k) t (f t k))
    (hdisj : ∀ j k, j < k → k < n → ∀ px py, m j px py → ¬ m k px py) :
    Draws (fun px py => ∃ k, k < n ∧ m k px py) s ((List.range n).foldl f s) := by
  induction n with
  | zero => exact .empty (by simp) s
  | succ n ih =>
    have hfirst := ih (fun k hk => hround k (by omega)) fun j k hjk hk => hdisj j k hjk (by omega)
    have hlast := hround n (by omega) _ hfirst.frame
    simp only [List.range_succ, List.foldl_append, List.foldl_cons, List.foldl_nil, Nat.exists_lt_succ_right]
    exact hfirst.trans hlast fun px py ⟨j, hj, hm⟩ => hdisj j n hj (by omega) px py hm

/-! ### The sprite (R150, R151) -/

/-- The mask of column `c` of the sprite row `b` drawn as row `r`: one pixel, or none. -/
def ColumnMask (xv yv b : Byte) (r c : Nat) : Mask := fun px py =>
  (xv.toNat + c) % 64 = px.val ∧ (yv.toNat + r) % 32 = py.val ∧ b.getLsbD (7 - c) = true

/-- The mask of the sprite row `b` drawn as row `r`. -/
def RowMask (xv yv b : Byte) (r : Nat) : Mask := fun px py => ∃ c, c < 8 ∧ ColumnMask xv yv b r c px py

/-- Where the bit is 1, the column is the one pixel of the wrapped coordinates. -/
theorem columnMask_iff {xv yv b : Byte} {r c : Nat} (hb : b.getLsbD (7 - c) = true) (px : PixelX) (py : PixelY) :
    ColumnMask xv yv b r c px py ↔ px = wrapX xv c ∧ py = wrapY yv r := by
  simp only [ColumnMask, hb, and_true, Fin.ext_iff, wrapX, wrapY, eq_comm]

/-- A toggle, with `VF` set if the pixel was on, draws that pixel. -/
theorem draws_toggle {m : Mask} {x : PixelX} {y : PixelY} (hm : ∀ px py, m px py ↔ px = x ∧ py = y) (s : State) :
    Draws m s (if s.pixel x y then setV vf 1 (dispToggle x y s) else dispToggle x y s) := by
  have hinside : ∀ px py, m px py → (dispToggle x y s).pixel px py = !s.pixel px py := fun px py h => by
    rw [pixel_dispToggle, if_pos ((hm px py).1 h)]
  have houtside : ∀ px py, ¬ m px py → (dispToggle x y s).pixel px py = s.pixel px py := fun px py h => by
    rw [pixel_dispToggle, if_neg (mt (hm px py).2 h)]
  have hhits : Hits m s ↔ s.pixel x y = true := by simp [Hits, hm]
  split
  · next hon =>
    exact ⟨(drawFrame_dispToggle x y s).trans (drawFrame_setV 1 _), hinside, houtside, fun _ => reg_setV_self vf 1 _,
      fun hmiss => absurd (hhits.2 hon) hmiss⟩
  · next hoff =>
    exact ⟨drawFrame_dispToggle x y s, hinside, houtside, fun hhit => absurd (hhits.1 hhit) hoff, fun _ => rfl⟩

theorem draws_drawPixel (xv yv b : Byte) (r c : Nat) (s : State) :
    Draws (ColumnMask xv yv b r c) s (drawPixel xv yv b r s c) := by
  unfold drawPixel
  split
  · next hb => exact draws_toggle (columnMask_iff hb) s
  · next hb => exact .empty (fun _ _ ⟨_, _, hbit⟩ => hb hbit) s

/-- The eight columns of a row do not meet, the display being 64 wide. -/
theorem draws_drawRow (xv yv : Byte) (a r : Nat) (s : State) :
    Draws (RowMask xv yv (s.byteAt (a + r)) r) s (drawRow xv yv a s r) :=
  Draws.foldl_range (fun c _ t _ => draws_drawPixel xv yv _ r c t)
    fun j k hjk hk px py ⟨hj, _, _⟩ ⟨hk', _, _⟩ => by omega

/-- Up to 32 rows do not meet, the display being 32 high; the bytes they draw are those before the draw. -/
theorem draws_drawRows (xv yv : Byte) (a : Nat) {n : Nat} (hn : n ≤ 32) (s : State) :
    Draws (InSprite s xv yv a n) s ((List.range n).foldl (drawRow xv yv a) s) := by
  refine Draws.foldl_range (m := fun r => RowMask xv yv (s.byteAt (a + r)) r) (fun r _ t hframe => ?_)
    fun j k hjk hk px py ⟨_, _, _, hj, _⟩ ⟨_, _, _, hk', _⟩ => by omega
  rw [← hframe.byteAt]
  exact draws_drawRow xv yv a r t

/-- The mask of a sprite depends on the state through memory only. -/
theorem inSprite_congr {s t : State} (h : ∀ a, t.byteAt a = s.byteAt a) (xv yv : Byte) (a n : Nat) :
    InSprite t xv yv a n = InSprite s xv yv a n := by
  unfold InSprite
  simp only [h]

/-- A draw whose reads pass their checks draws the sprite's mask from the advanced state with `VF` 0. -/
theorem exec_drw_draws {x y : RegIx} {n : Nat} {s : State} (hwf : (Instr.drw x y n).wf = true)
    (hmem : n = 0 ∨ s.idx.toNat + n - 1 ≤ 0xFFF) :
    ∃ t, exec (.drw x y n) s = .next t ∧
      Draws (InSprite s (s.reg x) (s.reg y) s.idx.toNat n) (setV vf 0 (advance s)) t := by
  have hchecks : firstFault readFault (base s) n = none :=
    firstFault_read_none.2 (show n = 0 ∨ s.idx.toNat + n ≤ 4096 by omega)
  have hn : n ≤ 15 := of_decide_eq_true hwf
  refine ⟨_, ?_, draws_drawRows (s.reg x) (s.reg y) s.idx.toNat (by omega) (setV vf 0 (advance s))⟩
  exact congrArg (settle · (.drw x y n) s _) hchecks

/-! ### The statements -/

/-- Settles O43: the loop draws the mask, and before it `VF` is 0 and only `pc` and `VF` have changed. -/
theorem drawIsXorWithTheMask : Obligations.DrawIsXorWithTheMask := by
  intro x y n s hwf hmem
  obtain ⟨t, ht, h⟩ := exec_drw_draws hwf hmem
  have hframe : DrawFrame (advance s) t := (drawFrame_setV 0 _).trans h.frame
  refine ⟨t, ht, ?_, h.inside, h.outside, h.hit, fun hmiss => ?_, hframe.1, hframe.onlyChanges⟩
  · rw [hframe.2]
    rfl
  · rw [h.miss hmiss, reg_setV_self]

/-- Settles O44: the first draw (O43) leaves all that the mask depends on, so the second inverts the same pixels
back, and hits those that were off. -/
theorem drawTwiceRestores : Obligations.DrawTwiceRestores := by
  intro x y n s t u hwf hx hy hmem ht hu
  obtain ⟨t', ht', -, hin, hout, -, -, hregs, honly⟩ := drawIsXorWithTheMask x y n s hwf hmem
  obtain rfl : t = t' := by simpa [ht] using ht'
  have hidx : t.idx = s.idx := honly .idx (by decide)
  have hbytes : ∀ a, t.byteAt a = s.byteAt a := honly .mem (by decide)
  obtain ⟨u', hu', -, hin', hout', hhit, hmiss, -, -⟩ := drawIsXorWithTheMask x y n t hwf (hidx ▸ hmem)
  obtain rfl : u = u' := by simpa [hu] using hu'
  rw [hregs x hx, hregs y hy, hidx, inSprite_congr hbytes] at hin' hout' hhit hmiss
  have hhits : Hits (InSprite s (s.reg x) (s.reg y) s.idx.toNat n) t ↔
      ∃ px py, InSprite s (s.reg x) (s.reg y) s.idx.toNat n px py ∧ s.pixel px py = false :=
    exists_congr fun px => exists_congr fun py => and_congr_right fun hm => by rw [hin px py hm, Bool.not_eq_true']
  refine ⟨fun px py => ?_, fun hflag => ?_, fun hoff => hhit (hhits.2 hoff)⟩
  · by_cases hm : InSprite s (s.reg x) (s.reg y) s.idx.toNat n px py
    · rw [hin' px py hm, hin px py hm, Bool.not_not]
    · rw [hout' px py hm, hout px py hm]
  · by_contra hnone
    rw [hmiss (mt hhits.1 hnone)] at hflag
    exact absurd hflag (by decide)

end Sys2Proof.Machine
end

section
/-! The family of 44_keys.md: the key instructions are skips on the sampled level of the key that `V[x]` names. -/

namespace Sys2Proof.Machine

/-- A byte names a key that is down: its code is at most 15 and the level of that key is high (R160, R162). -/
theorem keyDownNow_eq_decide (b : Byte) (s : State) :
    keyDownNow b s = decide (b.toNat ≤ 15 ∧ (Config.keyLevels s.now).getLsbD b.toNat = true) := by
  rw [keyDownNow, keyPressed, Bool.decide_and, Bool.decide_eq_true]

theorem pc_skipIf_keyDownNow (b : Byte) (s : State) :
    (skipIf (keyDownNow b s) (advance s)).pc =
      if b.toNat ≤ 15 ∧ (Config.keyLevels s.now).getLsbD b.toNat = true then s.pc + 4 else s.pc + 2 := by
  rw [keyDownNow_eq_decide, pc_skipIf_advance]

theorem pc_skipIf_not_keyDownNow (b : Byte) (s : State) :
    (skipIf (!keyDownNow b s) (advance s)).pc =
      if b.toNat ≤ 15 ∧ (Config.keyLevels s.now).getLsbD b.toNat = true then s.pc + 2 else s.pc + 4 := by
  rw [keyDownNow_eq_decide, ← decide_not, pc_skipIf_not_advance]

/-- Settles O33: both are skips of the advanced state, on opposite conditions. -/
theorem keySkips : Obligations.KeySkips := fun x s =>
  ⟨⟨_, rfl, pc_skipIf_keyDownNow (s.reg x) s, onlyChanges_skipIf _ s⟩,
    ⟨_, rfl, pc_skipIf_not_keyDownNow (s.reg x) s, onlyChanges_skipIf _ s⟩⟩

end Sys2Proof.Machine
end

section
/-! The family of 45_timer_index_memory.md: the moves of the timers, the key wait and its end, BCD, and the block store
and load. A checked store is taken once, for any bytes: where it faults, and what it leaves where it does not. -/

namespace Sys2Proof.Machine

/-! ### Timers and tone (R35) -/

theorem tone_iff (s : State) : tone s = true ↔ s.mode ≠ .halted ∧ s.st ≠ 0 := by
  rw [tone, Bool.and_eq_true, decide_eq_true_iff, decide_eq_true_iff]

/-! ### The end of a key wait (R210) -/

theorem keyDown_of_awaiting {s : State} (hs : s.mode = .awaitingKey) (k : RegIx) :
    keyDown k.val s = .next (deliverKey k s) := by
  rw [keyDown, dif_pos k.isLt, hs]

@[simp] theorem reg_deliverKey (k z : RegIx) (s : State) :
    (deliverKey k s).reg z = if z = s.kreg then BitVec.ofNat 8 k.val else s.reg z :=
  reg_setV s.kreg z (BitVec.ofNat 8 k.val) s

/-- A key code is a byte value (R210). -/
theorem toNat_reg_deliverKey (k : RegIx) (s : State) : ((deliverKey k s).reg s.kreg).toNat = k.val := by
  have hk := k.isLt
  rw [reg_deliverKey, if_pos rfl, BitVec.toNat_ofNat, Nat.mod_eq_of_lt (by omega)]

theorem reg_deliverKey_ne {z : RegIx} (k : RegIx) (s : State) (hz : z ≠ s.kreg) : (deliverKey k s).reg z = s.reg z := by
  rw [reg_deliverKey, if_neg hz]

theorem onlyChanges_deliverKey (k : RegIx) (s : State) : OnlyChanges [.regs, .mode] s (deliverKey k s) :=
  onlyChanges_of_eq_takeParts rfl

/-! ### Checked accesses (R56, R58, R179) -/

/-- An instruction whose checks fail enters the fault that the first failing one names. -/
theorem halts_of_failed_check {i : Instr} {s effect : State} {check : Nat → Option Fault} {n : Nat} {f : Fault}
    (hfault : firstFault check (base s) n = some f) (hexec : exec i s = settle (firstFault check (base s) n) i s effect) :
    ∃ t, exec i s = .next t ∧ HaltsWith (faultCode f).toNat (encode i) s t := by
  rw [hfault, settle_some] at hexec
  exact ⟨_, hexec, haltsWith_raise f (encode i) s⟩

/-- An instruction whose checked stores lie in 0x200-0xFFF stores its bytes from `I` on, and changes nothing else
but `pc`. -/
theorem stores_of_passed_checks {i : Instr} {s : State} {bs : List Byte} {n : Nat} (hlen : bs.length = n)
    (hmem : Memory.wf s.mem) (hlow : 0x200 ≤ s.idx.toNat) (hhigh : s.idx.toNat + n ≤ 4096)
    (hexec : exec i s = settle (firstFault writeFault (base s) n) i s (putBytes (base s) bs (advance s))) :
    ∃ t, exec i s = .next t ∧ t.pc = s.pc + 2 ∧
      (∀ k (hk : k < bs.length), t.byteAt (s.idx.toNat + k) = bs[k]) ∧
      (∀ a, ¬ (base s ≤ a ∧ a < base s + n) → t.byteAt a = s.byteAt a) ∧ OnlyChanges [.pc, .mem] s t := by
  have hchecks : firstFault writeFault (base s) n = none := firstFault_write_none.2 (.inr ⟨hlow, hhigh⟩)
  rw [hchecks, settle_none] at hexec
  refine ⟨_, hexec, rfl, fun k hk => ?_, fun a ha => ?_, onlyChanges_of_eq_takeParts rfl⟩
  · exact byteAt_putBytes_inside (s := advance s) hmem (base s) bs hk
  · exact byteAt_putBytes_outside (advance s) bs (by omega)

/-- A block load whose addresses lie in memory replaces the registers of the block. -/
theorem exec_load_of_le {x : RegIx} {s : State} (hend : s.idx.toNat + x.val ≤ 0xFFF) :
    exec (.load x) s = .next (setBlock (memBlock s.idx.toNat (x.val + 1) s) (advance s)) := by
  have hchecks : firstFault readFault (base s) (x.val + 1) = none :=
    firstFault_read_none.2 (.inr (show s.idx.toNat + (x.val + 1) ≤ 4096 by omega))
  exact congrArg (settle · (.load x) s _) hchecks

/-- A block load puts byte `z` of its block in `V[z]` (R178). -/
theorem reg_setBlock_memBlock {z : RegIx} {n : Nat} (a : Nat) (s t : State) (hz : z.val < n) :
    (setBlock (memBlock a n s) t).reg z = s.byteAt (a + z.val) := by
  rw [reg_setBlock, List.getD_eq_getElem _ _ (by rwa [length_memBlock]), getElem_memBlock]

/-! ### The digits of a byte (R176) -/

theorem toNat_byte_hundreds (b : Byte) : (b / 100).toNat = b.toNat / 100 := BitVec.toNat_udiv

theorem toNat_byte_tens (b : Byte) : (b / 10 % 10).toNat = b.toNat / 10 % 10 := by
  rw [BitVec.toNat_umod, BitVec.toNat_udiv]
  rfl

theorem toNat_byte_units (b : Byte) : (b % 10).toNat = b.toNat % 10 := BitVec.toNat_umod

/-! ### The statements -/

/-- Settles O34: each of the three writes one register or timer of the advanced state. -/
theorem timerMoves : Obligations.TimerMoves := by
  intro x s
  refine ⟨⟨_, rfl, rfl, reg_setV_self x _ _, fun _ hz => reg_setV_ne _ (advance s) hz, onlyChanges_setV x _ s⟩,
    ⟨setDT (s.reg x) (advance s), rfl, rfl, rfl, onlyChanges_of_eq_takeParts rfl⟩,
    ⟨setST (s.reg x) (advance s), rfl, rfl, rfl, onlyChanges_of_eq_takeParts rfl, fun hrun => ?_⟩⟩
  exact (tone_iff _).trans (and_iff_right hrun)

/-- Settles O35: the key goes to the register that the wait was entered for, `KREG`. -/
theorem keyWaitThenKeyDown : Obligations.KeyWaitThenKeyDown := by
  intro x s
  refine ⟨awaitKey x (advance s), rfl, rfl, rfl, rfl, onlyChanges_of_eq_takeParts rfl, fun k hk => ?_⟩
  have hkey : k < 16 := by omega
  exact ⟨_, keyDown_of_awaiting rfl ⟨k, hkey⟩, toNat_reg_deliverKey _ _, rfl, fun _ hz => reg_deliverKey_ne _ _ hz,
    onlyChanges_deliverKey _ _⟩

/-- Settles O40: BCD checks three writes, the block store `x + 1`; the first decides below 0x200, the last above
0xFFF. -/
theorem storesFaultBeforeAnyWrite : Obligations.StoresFaultBeforeAnyWrite := by
  intro x s
  refine ⟨fun hlow => ⟨?_, ?_⟩, fun hlow hend => ?_, fun hlow hend => ?_⟩
  · exact halts_of_failed_check (firstFault_write_reserved (by decide) hlow) rfl
  · exact halts_of_failed_check (firstFault_write_reserved (Nat.succ_pos x.val) hlow) rfl
  · exact halts_of_failed_check (firstFault_write_data hlow (by decide) (Nat.succ_lt_succ hend)) rfl
  · exact halts_of_failed_check (firstFault_write_data hlow (Nat.succ_pos x.val) (Nat.succ_lt_succ hend)) rfl

/-- Settles O37: the bytes of the checked store are the three digits. -/
theorem bcdStoresThreeDigits : Obligations.BcdStoresThreeDigits := by
  intro x s hmem hlow hhigh
  obtain ⟨t, ht, hpc, hdigits, hbytes, honly⟩ := stores_of_passed_checks (i := .ldBcd x)
    (length_bcdDigits (s.reg x)) hmem hlow (Nat.succ_le_succ hhigh) rfl
  refine ⟨t, ht, hpc, ?_, ?_, ?_, hbytes, honly⟩
  · exact (congrArg BitVec.toNat (hdigits 0 (show 0 < 3 by decide))).trans (toNat_byte_hundreds _)
  · exact (congrArg BitVec.toNat (hdigits 1 (show 1 < 3 by decide))).trans (toNat_byte_tens _)
  · exact (congrArg BitVec.toNat (hdigits 2 (show 2 < 3 by decide))).trans (toNat_byte_units _)

/-- Settles O38: the bytes of the checked store are the latched registers. -/
theorem storeWritesTheBlock : Obligations.StoreWritesTheBlock := by
  intro x s hmem hlow hhigh
  obtain ⟨t, ht, hpc, hblock, hbytes, honly⟩ := stores_of_passed_checks (i := .store x)
    (length_regBlock x s) hmem hlow (Nat.succ_le_succ hhigh) rfl
  exact ⟨t, ht, hpc, fun z hz => (hblock z.val _).trans (getElem_regBlock s hz), hbytes, honly⟩

/-- Settles O39: the checked reads pass, and the block replaces `V[0]` to `V[x]` alone. -/
theorem loadReadsTheBlock : Obligations.LoadReadsTheBlock := by
  intro x s hend
  refine ⟨_, exec_load_of_le hend, rfl, fun z hz => ?_, fun z hz => ?_, onlyChanges_setBlock _ s⟩
  · exact reg_setBlock_memBlock _ s (advance s) (Nat.lt_succ_of_le hz)
  · exact reg_setBlock_of_le (advance s) (by rwa [length_memBlock])

/-- Settles O42: the store (O38) leaves `I` and the registers above `x`, and the load (O39) reads the others back. -/
theorem storeThenLoadRestores : Obligations.StoreThenLoadRestores := by
  intro x s t u hmem hlow hhigh ht hu
  obtain ⟨t', ht', -, hstored, -, hstore⟩ := storeWritesTheBlock x s hmem hlow hhigh
  obtain rfl : t = t' := by simpa [ht] using ht'
  have hidx : t.idx = s.idx := hstore .idx (by decide)
  obtain ⟨u', hu', -, hloaded, habove, hload⟩ := loadReadsTheBlock x t (hidx ▸ hhigh)
  obtain rfl : u = u' := by simpa [hu] using hu'
  have htmode : t.mode = s.mode := hstore .mode (by decide)
  have humode : u.mode = t.mode := hload .mode (by decide)
  refine ⟨htmode, humode.trans htmode, fun z => ?_⟩
  obtain hz | hz := le_or_gt z.val x.val
  · rw [hloaded z hz, hidx, hstored z hz]
  · rw [habove z hz, hstore .regs (by decide) z]

end Sys2Proof.Machine
end

section
/-! The family of 60_exceptions.md: which fault an instruction can raise and what a fault leaves alone, that every
step answers, what each event does in each mode, and that a `Frame` is the steps of its batch. -/

namespace Sys2Proof.Machine

/-! ### Which instruction can raise which fault (R202) -/

/-- The table of R202: the faults that an instruction can raise once it is decoded. -/
inductive CanRaise : Instr → Fault → Prop
  | ret : CanRaise .ret .stackUnderflow
  | call (nnn : Addr12) : CanRaise (.call nnn) .stackOverflow
  | drw (x y : RegIx) (n : Nat) : CanRaise (.drw x y n) .dataAddressFault
  | load (x : RegIx) : CanRaise (.load x) .dataAddressFault
  | ldBcd (x : RegIx) {f : Fault} (h : f = .dataAddressFault ∨ f = .reservedWriteFault) : CanRaise (.ldBcd x) f
  | store (x : RegIx) {f : Fault} (h : f = .dataAddressFault ∨ f = .reservedWriteFault) : CanRaise (.store x) f

/-- A run of writes fails with `DataAddressFault` or `ReservedWriteFault`. -/
theorem firstFault_write_some {a n : Nat} {f : Fault} (h : firstFault writeFault a n = some f) :
    f = .dataAddressFault ∨ f = .reservedWriteFault := by
  obtain ⟨k, -, hk⟩ := List.exists_of_findSome?_eq_some h
  unfold writeFault at hk
  split at hk
  · exact .inl (by simpa using hk.symm)
  · split at hk
    · exact .inr (by simpa using hk.symm)
    · simp at hk

/-- A checked instruction whose effect leaves a running machine running halts it only by a failed check. -/
theorem fault_of_settle_halted {f : Option Fault} {i : Instr} {s effect t : State}
    (h : settle f i s effect = .next t) (hs : s.mode = .running) (hmode : effect.mode = s.mode)
    (ht : t.mode = .halted) : ∃ e, f = some e ∧ t = raise e (encode i) s := by
  obtain hfault | ⟨-, rfl⟩ := settle_next h
  · exact hfault
  · simp [hmode, hs] at ht

/-- An instruction that halts a running machine has entered one of its faults of R202. -/
theorem fault_of_exec_halted {i : Instr} {s t : State} (hs : s.mode = .running) (h : exec i s = .next t)
    (ht : t.mode = .halted) : ∃ f, CanRaise i f ∧ t = raise f (encode i) s := by
  cases i with
  | ret =>
    obtain rfl | ⟨a, rest, -, rfl⟩ := execRet_next h
    · exact ⟨_, .ret, rfl⟩
    · exact nomatch hs.symm.trans ht
  | call nnn =>
    obtain rfl | ⟨-, rfl⟩ := execCall_next h
    · exact ⟨_, .call nnn, rfl⟩
    · exact nomatch hs.symm.trans ht
  | drw x y n =>
    have hmode := (drawFrame_drawSprite (s.reg x) (s.reg y) (base s) n (advance s)).sameControl.mode
    obtain ⟨f, hf, rfl⟩ := fault_of_settle_halted h hs hmode ht
    obtain ⟨rfl, -⟩ := firstFault_read_some hf
    exact ⟨_, .drw x y n, rfl⟩
  | load x =>
    obtain ⟨f, hf, rfl⟩ := fault_of_settle_halted h hs rfl ht
    obtain ⟨rfl, -⟩ := firstFault_read_some hf
    exact ⟨_, .load x, rfl⟩
  | ldBcd x =>
    obtain ⟨f, hf, rfl⟩ := fault_of_settle_halted h hs rfl ht
    exact ⟨f, .ldBcd x (firstFault_write_some hf), rfl⟩
  | store x =>
    obtain ⟨f, hf, rfl⟩ := fault_of_settle_halted h hs rfl ht
    exact ⟨f, .store x (firstFault_write_some hf), rfl⟩
  | ldKey x =>
    cases h
    exact nomatch ht
  | cls | jp | jpV0 | seImm | sneImm | seReg | sneReg | skp | sknp | ldImm | addImm | ldReg | orReg | andReg | xorReg
  | addReg | sub | shr | subn | shl | ldI | rnd | ldFromDT | ldToDT | ldToST | addI | ldFont =>
    cases h
    exact nomatch hs.symm.trans ht

/-- The codes of the two faults of a store (R201). -/
theorem toNat_faultCode_of_write {f : Fault} (h : f = .dataAddressFault ∨ f = .reservedWriteFault) :
    (faultCode f).toNat = 5 ∨ (faultCode f).toNat = 6 := by
  obtain rfl | rfl := h
  · exact .inl rfl
  · exact .inr rfl

/-- Settles O10: the table of R202, row by row. -/
theorem faultsComeFromTheirInstructions : Obligations.FaultsComeFromTheirInstructions := by
  intro i s t hs h ht
  obtain ⟨f, hf, rfl⟩ := fault_of_exec_halted hs h ht
  cases hf with
  | ret => exact .inl ⟨rfl, rfl⟩
  | call nnn => exact .inr (.inl ⟨nnn, rfl, rfl⟩)
  | drw x y n => exact .inr (.inr (.inl ⟨⟨x, y, n, rfl⟩, rfl⟩))
  | load x => exact .inr (.inr (.inr (.inl ⟨⟨x, rfl⟩, rfl⟩)))
  | ldBcd x hf => exact .inr (.inr (.inr (.inr ⟨⟨x, .inl rfl⟩, toNat_faultCode_of_write hf⟩)))
  | store x hf => exact .inr (.inr (.inr (.inr ⟨⟨x, .inr rfl⟩, toNat_faultCode_of_write hf⟩)))

/-! ### Faults are precise (R203) -/

/-- The failure of a fetch is one of the cycle, and of no instruction. -/
theorem CanRaise.ne_fetchAddressFault {i : Instr} {f : Fault} (h : CanRaise i f) : f ≠ .fetchAddressFault := by
  cases h with
  | ret | call _ | drw _ _ _ | load _ => decide
  | ldBcd _ hf | store _ hf => obtain rfl | rfl := hf <;> decide

/-- No instruction that can fault has ignored fields (R79). -/
theorem CanRaise.examinedBits_eq {i : Instr} {f : Fault} (h : CanRaise i f) : examinedBits i = BitVec.allOnes 16 := by
  cases h with
  | ret | call _ | drw _ _ _ | load _ | ldBcd _ _ | store _ _ => rfl

/-- The encoding of an instruction that can fault is the word it was decoded from. -/
theorem CanRaise.encode_eq {i : Instr} {f : Fault} {w : Word} (h : CanRaise i f) (hd : decodeWord w = .instr i) :
    encode i = w := by
  rw [(decodedWordReencodes w i hd).2, h.examinedBits_eq, BitVec.and_allOnes]

/-- What a fault of a cycle reports: `pc` if its fetch failed, the fetched word otherwise (R32, R201). -/
def Reports (s : State) (f : Fault) (info : Word) : Prop :=
  (f = .fetchAddressFault ∧ info = s.pc ∧ fetch s = none) ∨ (f ≠ .fetchAddressFault ∧ fetch s = some info)

/-- A fetch and execution that halts a running machine is fault entry from the state in which it began. -/
theorem fault_of_fetchAndExec_halted {s t : State} (hs : s.mode = .running) (h : fetchAndExec s = .next t)
    (ht : t.mode = .halted) : ∃ f info, Reports s f info ∧ t = raise f info s := by
  obtain ⟨hf, rfl⟩ | ⟨w, r, hf, -, rfl⟩ | ⟨w, i, hf, hd, hi⟩ := fetchAndExec_cases h
  · exact ⟨_, _, .inl ⟨rfl, rfl, hf⟩, rfl⟩
  · exact ⟨_, _, .inr ⟨by decide, hf⟩, rfl⟩
  · obtain ⟨f, hraise, rfl⟩ := fault_of_exec_halted hs hi ht
    rw [hraise.encode_eq hd]
    exact ⟨f, w, .inr ⟨hraise.ne_fetchAddressFault, hf⟩, rfl⟩

/-- The codes of R201 are 1 to 6. -/
theorem faultCode_range (f : Fault) : 1 ≤ (faultCode f).toNat ∧ (faultCode f).toNat ≤ 6 := by
  cases f <;> decide

theorem faultCode_eq_four_iff (f : Fault) : (faultCode f).toNat = 4 ↔ f = .fetchAddressFault := by
  cases f <;> decide

theorem pc_gt_of_fetch_none {s : State} (h : fetch s = none) : s.pc.toNat > 0xFFE := by
  by_contra hle
  simp [fetch_of_pc_le (Nat.not_lt.1 hle)] at h

/-- Settles O9: the step is fault entry with the model's bookkeeping after it. -/
theorem faultsArePrecise : Obligations.FaultsArePrecise := by
  intro s t hs hstep ht
  obtain ⟨u, hu, rfl⟩ := step_running hs hstep
  rw [closeSlot_mode, afterCycle_mode] at ht
  obtain ⟨f, info, hrep, rfl⟩ := fault_of_fetchAndExec_halted hs hu ht
  obtain ⟨hlow, hhigh⟩ := faultCode_range f
  refine ⟨onlyChanges_of_eq_takeParts rfl, hlow, hhigh, fun hcode => ?_, fun hcode => ?_⟩
  · have hf := (faultCode_eq_four_iff f).1 hcode
    obtain ⟨-, hinfo, hnone⟩ | ⟨hne, -⟩ := hrep
    · exact ⟨hinfo, pc_gt_of_fetch_none hnone⟩
    · exact absurd hf hne
  · have hne := mt (faultCode_eq_four_iff f).2 hcode
    obtain ⟨hf, -⟩ | ⟨-, hword⟩ := hrep
    · exact absurd hf hne
    · exact hword

/-! ### Every step answers (R203, R204, R211) -/

theorem settle_answers (f : Option Fault) (i : Instr) (s t : State) : ∃ u, settle f i s t = .next u := by
  cases f <;> exact ⟨_, rfl⟩

theorem execRet_answers (s : State) : ∃ t, execRet s = .next t := by
  unfold execRet
  split <;> exact ⟨_, rfl⟩

theorem execCall_answers (nnn : Addr12) (s : State) : ∃ t, execCall nnn s = .next t := by
  unfold execCall
  split <;> exact ⟨_, rfl⟩

theorem exec_answers (i : Instr) (s : State) : ∃ t, exec i s = .next t := by
  cases i with
  | ret => exact execRet_answers s
  | call nnn => exact execCall_answers nnn s
  | drw | load | ldBcd | store => exact settle_answers _ _ _ _
  | cls | jp | jpV0 | seImm | sneImm | seReg | sneReg | skp | sknp | ldImm | addImm | ldReg | orReg | andReg | xorReg
  | addReg | sub | shr | subn | shl | ldI | rnd | ldFromDT | ldToDT | ldToST | addI | ldFont | ldKey =>
    exact ⟨_, rfl⟩

theorem fetchAndExec_answers (s : State) : ∃ t, fetchAndExec s = .next t := by
  cases hf : fetch s with
  | none => exact ⟨_, fetchAndExec_of_fetch_none hf⟩
  | some w =>
    cases hd : decodeWord w with
    | illegal r => exact ⟨_, fetchAndExec_of_illegal hf hd⟩
    | instr i =>
      obtain ⟨t, ht⟩ := exec_answers i s
      exact ⟨t, (fetchAndExec_of_instr hf hd).trans ht⟩

theorem step_of_awaiting {s : State} (hs : s.mode = .awaitingKey) : step s = .next (awaitStep s) := by
  simp only [step, hs]

theorem step_of_halted {s : State} (hs : s.mode = .halted) : step s = .next s := by
  simp only [step, hs, haltedStep]

theorem step_answers (s : State) : ∃ t, step s = .next t := by
  cases hs : s.mode with
  | running =>
    obtain ⟨t, ht⟩ := fetchAndExec_answers s
    exact ⟨_, by rw [step_eq_of_running hs, ht, thenApply_next]⟩
  | awaitingKey => exact ⟨_, step_of_awaiting hs⟩
  | halted => exact ⟨_, step_of_halted hs⟩

/-- Settles O11. -/
theorem execAndStepAlwaysAnswer : Obligations.ExecAndStepAlwaysAnswer := ⟨exec_answers, step_answers⟩

/-! ### The timers and the slot (R211, R212) -/

theorem toNat_countDown (b : Byte) : (countDown b).toNat = b.toNat - 1 := by
  unfold countDown
  split
  · next h => rw [h]; rfl
  · bv_omega

theorem tickIfRunning_of_running {s : State} (hs : s.mode = .running) : tickIfRunning s = tick s := by
  simp only [tickIfRunning, hs]

theorem tickIfRunning_of_not_running {s : State} (hs : s.mode ≠ .running) : tickIfRunning s = s := by
  cases hm : s.mode with
  | running => exact absurd hm hs
  | awaitingKey | halted => simp only [tickIfRunning, hm]

/-- Settles O55. -/
theorem tickCountsBothTimersDown : Obligations.TickCountsBothTimersDown := fun s =>
  ⟨toNat_countDown s.dt, toNat_countDown s.st, onlyChanges_of_eq_takeParts rfl, tickIfRunning_of_running,
    tickIfRunning_of_not_running⟩

/-- Settles O56: by the mode, and in a running machine by whether the slot was the last of its batch. -/
theorem slotCloses : Obligations.SlotCloses := by
  intro s
  refine ⟨fun hs => ?_, fun hs => ?_⟩
  · by_cases hlt : s.slot + 1 < Config.ipf
    · have hlast : lastSlot s = false := decide_eq_false (Nat.not_le.2 hlt)
      simp [closeSlot, hs, hlast, hlt]
    · have hlast : lastSlot s = true := decide_eq_true (Nat.not_lt.1 hlt)
      simp [closeSlot, hs, hlast, hlt, tick]
  · cases hm : s.mode with
    | running => exact absurd hm hs
    | awaitingKey | halted => simp only [closeSlot, hm]

/-! ### The events, in each mode (R204, R208, R210, R211) -/

theorem hostMove_frame {s : State} (h0 : s.slot = 0) : hostMove .frame s = thenApply (frame s) closeLoad := if_pos h0

theorem hostMove_keyDown {s : State} (h0 : s.slot = 0) (k : Nat) :
    hostMove (.keyDown k) s = thenApply (keyDown k s) closeLoad := if_pos h0

/-- The loop of `Frame` is over when its count is reached or the machine does not run. -/
theorem batch_of_stopped {n : Nat} {s : State} (h : s.mode = .running → n = 0) : batch n s = .next s := by
  cases n with
  | zero => rfl
  | succ n =>
    cases hm : s.mode with
    | running => exact absurd (h hm) (Nat.succ_ne_zero n)
    | awaitingKey | halted => simp only [batch, hm]

theorem frame_of_not_halted {s : State} (hs : s.mode ≠ .halted) :
    frame s = thenApply (batch Config.ipf s) tickIfRunning := by
  cases hm : s.mode with
  | halted => exact absurd hm hs
  | running | awaitingKey => simp only [frame, hm]

/-- A `Frame` in which the machine does not run changes nothing. -/
theorem frame_of_not_running {s : State} (hs : s.mode ≠ .running) : frame s = .next s := by
  by_cases hh : s.mode = .halted
  · simp only [frame, hh]
  · rw [frame_of_not_halted hh, batch_of_stopped (absurd · hs), thenApply_next, tickIfRunning_of_not_running hs]

theorem hostMove_frame_of_not_running {s : State} (hs : s.mode ≠ .running) (h0 : s.slot = 0) :
    hostMove .frame s = .next (closeLoad s) := by
  rw [hostMove_frame h0, frame_of_not_running hs, thenApply_next]

/-- A `KeyDown` outside a key wait is ignored. -/
theorem keyDown_of_not_awaiting {k : Nat} {s : State} (hk : k ≤ 15) (hs : s.mode ≠ .awaitingKey) :
    keyDown k s = .next s := by
  rw [keyDown, dif_pos (Nat.lt_succ_of_le hk)]
  cases hm : s.mode with
  | awaitingKey => exact absurd hm hs
  | running | halted => rfl

/-- Settles O36. -/
theorem keyDownInEveryMode : Obligations.KeyDownInEveryMode := by
  intro k s
  refine ⟨keyDown_of_not_awaiting, fun hk hs => ?_, fun hk => dif_neg (by omega)⟩
  exact ⟨_, keyDown_of_awaiting hs ⟨k, Nat.lt_succ_of_le hk⟩, toNat_reg_deliverKey _ s, rfl,
    fun _ hz => reg_deliverKey_ne _ s hz, onlyChanges_deliverKey _ s⟩

/-- Settles O12. -/
theorem haltedStaysUntilReset : Obligations.HaltedStaysUntilReset := by
  intro s hs
  refine ⟨step_of_halted hs, ?_, fun h0 => ⟨?_, fun k hk => ?_⟩, hostReset s, rfl, rfl, rfl, rfl⟩
  · exact Bool.eq_false_iff.2 fun htone => ((tone_iff s).1 htone).1 hs
  · exact hostMove_frame_of_not_running (by simp [hs]) h0
  · rw [hostMove_keyDown h0, keyDown_of_not_awaiting hk (by simp [hs]), thenApply_next]

/-- Settles O13: the wait goes on, or a key ends it. -/
theorem waitingExecutesNothing : Obligations.WaitingExecutesNothing := by
  intro s hs
  refine ⟨hostMove_frame_of_not_running (by simp [hs]), awaitStep s, step_of_awaiting hs, ?_⟩
  obtain ht | ⟨k, ht⟩ := awaitStep_cases s <;> rw [ht]
  · exact .inl (onlyChanges_of_eq_takeParts rfl)
  · have hreg : ((afterCycle (deliverKey k s)).reg s.kreg).toNat = k.val := toNat_reg_deliverKey k s
    exact .inr ⟨onlyChanges_of_eq_takeParts rfl, rfl, by omega, fun _ hz => reg_deliverKey_ne k s hz⟩

/-! ### An instruction does not see the slot -/

/-- `s` at slot `j` of its frame. -/
def atSlot (j : Nat) (s : State) : State := { s with slot := j }

@[simp] theorem atSlot_slot (j : Nat) (s : State) : (atSlot j s).slot = j := rfl

theorem atSlot_of_slot_eq {s : State} {j : Nat} (h : s.slot = j) : atSlot j s = s := by
  subst h
  rfl

theorem drawPixel_atSlot (j : Nat) (xv yv b : Byte) (r : Nat) (s : State) (c : Nat) :
    drawPixel xv yv b r (atSlot j s) c = atSlot j (drawPixel xv yv b r s c) := by
  simp only [drawPixel, apply_ite (atSlot j)]
  rfl

theorem drawRow_atSlot (j : Nat) (xv yv : Byte) (a : Nat) (s : State) (r : Nat) :
    drawRow xv yv a (atSlot j s) r = atSlot j (drawRow xv yv a s r) :=
  List.foldl_hom (atSlot j) (fun s c => drawPixel_atSlot j xv yv _ r s c)

theorem drawSprite_atSlot (j : Nat) (xv yv : Byte) (a n : Nat) (s : State) :
    drawSprite xv yv a n (atSlot j s) = atSlot j (drawSprite xv yv a n s) :=
  List.foldl_hom (atSlot j) (init := setV vf 0 s) (fun s r => drawRow_atSlot j xv yv a s r)

theorem settle_atSlot (j : Nat) (f : Option Fault) (i : Instr) (s t : State) :
    settle f i (atSlot j s) (atSlot j t) = thenApply (settle f i s t) (atSlot j) := by
  cases f <;> rfl

theorem exec_atSlot (j : Nat) (i : Instr) (s : State) : exec i (atSlot j s) = thenApply (exec i s) (atSlot j) := by
  cases i with
  | ret =>
    cases hs : s.stack with
    | nil =>
      rw [exec_ret_of_nil hs, exec_ret_of_nil (s := atSlot j s) hs]
      rfl
    | cons a rest =>
      rw [exec_ret_of_cons hs, exec_ret_of_cons (s := atSlot j s) hs]
      rfl
  | call nnn =>
    cases hs : stackFull s with
    | true =>
      rw [exec_call_of_full hs, exec_call_of_full (s := atSlot j s) hs]
      rfl
    | false =>
      rw [exec_call_of_room hs, exec_call_of_room (s := atSlot j s) hs]
      rfl
  | drw x y n =>
    have hdraw := drawSprite_atSlot j (s.reg x) (s.reg y) (base s) n (advance s)
    exact (congrArg (settle _ _ _) hdraw).trans (settle_atSlot j _ _ s _)
  | load x => exact settle_atSlot j _ _ s (setBlock (memBlock (base s) (x.val + 1) s) (advance s))
  | ldBcd x => exact settle_atSlot j _ _ s (putBytes (base s) (bcdDigits (s.reg x)) (advance s))
  | store x => exact settle_atSlot j _ _ s (putBytes (base s) (regBlock x s) (advance s))
  | cls | jp | jpV0 | seImm | sneImm | seReg | sneReg | skp | sknp | ldImm | addImm | ldReg | orReg | andReg | xorReg
  | addReg | sub | shr | subn | shl | ldI | rnd | ldFromDT | ldToDT | ldToST | addI | ldFont | ldKey => rfl

theorem fetchAndExec_atSlot {s t : State} (j : Nat) (h : fetchAndExec s = .next t) :
    fetchAndExec (atSlot j s) = .next (atSlot j t) := by
  obtain ⟨hf, rfl⟩ | ⟨w, r, hf, hd, rfl⟩ | ⟨w, i, hf, hd, hi⟩ := fetchAndExec_cases h
  · exact fetchAndExec_of_fetch_none (s := atSlot j s) hf
  · exact fetchAndExec_of_illegal (s := atSlot j s) hf hd
  · rw [fetchAndExec_of_instr (s := atSlot j s) hf hd, exec_atSlot, hi, thenApply_next]

/-- An instruction leaves the slot where it is, since it is the same from any slot. -/
theorem fetchAndExec_slot {s t : State} (h : fetchAndExec s = .next t) : t.slot = s.slot := by
  have hsame := fetchAndExec_atSlot s.slot h
  rw [atSlot_of_slot_eq (s := s) rfl, h] at hsame
  injection hsame with ht
  exact (congrArg State.slot ht).trans (atSlot_slot s.slot t)

/-! ### A Frame is the steps of its batch (R211) -/

theorem core_run_succ {s t : State} (h : step s = .next t) (k : Nat) : core.run (k + 1) s = core.run k t := by
  have hcore : core.step s = .next t := h
  simp only [Host.Core.run, hcore]

theorem batch_succ_of_running {s t : State} (hs : s.mode = .running) (h : fetchAndExec s = .next t) (n : Nat) :
    batch (n + 1) s = batch n (afterCycle t) := by
  simp only [batch, hs, cycle, h, thenApply_next]

/-- At any slot, a step of a running machine is its cycle with that slot closed after it. -/
theorem step_atSlot {s t : State} (hs : s.mode = .running) (h : fetchAndExec s = .next t) (j : Nat) :
    step (atSlot j s) = .next (closeSlot (atSlot j (afterCycle t))) := by
  rw [step_eq_of_running (s := atSlot j s) hs, fetchAndExec_atSlot j h, thenApply_next]
  rfl

/-- The slot of a running machine that is not the batch's last leads to the next one. -/
theorem closeSlot_goes_on {s : State} {j : Nat} (hs : s.mode = .running) (hj : j + 1 < Config.ipf) :
    closeSlot (atSlot j s) = atSlot (j + 1) s :=
  ((slotCloses (atSlot j s)).1 hs).trans (if_pos hj)

/-- After the last instruction of its batch, or of a machine that no longer runs, the slot closes as the `Frame`
ends. -/
theorem closeSlot_ends_frame {s : State} {j : Nat} (h : s.mode = .running → Config.ipf ≤ j + 1) :
    closeSlot (atSlot j s) = atSlot 0 (tickIfRunning s) := by
  by_cases hs : s.mode = .running
  · rw [tickIfRunning_of_running hs]
    exact ((slotCloses (atSlot j s)).1 hs).trans (if_neg (Nat.not_lt.2 (h hs)))
  · rw [tickIfRunning_of_not_running hs]
    exact (slotCloses (atSlot j s)).2 hs

/-- The loop of `Frame` with `n` cycles left goes from `s` to `u`, and `k` steps from slot `j` of the frame go to the
end of that frame. -/
structure BatchIsSteps (n j k : Nat) (s u : State) : Prop where
  loop : batch n s = .next u
  steps : core.run k (atSlot j s) = .next (atSlot 0 (tickIfRunning u))
  pos : 0 < k
  le : k ≤ n
  all : u.mode = .running → k = n
  slot : u.slot = s.slot
  loadClosed : u.loadable = false

/-- The loop that ends after its next cycle is one step. -/
theorem BatchIsSteps.last {n j : Nat} {s t : State} (hs : s.mode = .running) (hj : j + (n + 1) = Config.ipf)
    (h : fetchAndExec s = .next t) (hend : t.mode = .running → n = 0) :
    BatchIsSteps (n + 1) j 1 s (afterCycle t) where
  loop := by rw [batch_succ_of_running hs h, batch_of_stopped (s := afterCycle t) hend]
  steps := by
    rw [core_run_succ (step_atSlot hs h j) 0, closeSlot_ends_frame fun hm => by have := hend hm; omega]
    rfl
  pos := Nat.one_pos
  le := Nat.succ_le_succ (Nat.zero_le n)
  all := fun hm => by rw [hend hm]
  slot := (fetchAndExec_slot h :)
  loadClosed := rfl

/-- A cycle after which the loop goes on is one step more. -/
theorem BatchIsSteps.cons {n j k : Nat} {s t u : State} (hs : s.mode = .running) (h : fetchAndExec s = .next t)
    (ht : t.mode = .running) (hj : j + 1 < Config.ipf) (rest : BatchIsSteps n (j + 1) k (afterCycle t) u) :
    BatchIsSteps (n + 1) j (k + 1) s u where
  loop := (batch_succ_of_running hs h n).trans rest.loop
  steps := by
    rw [core_run_succ (step_atSlot hs h j) k, closeSlot_goes_on (s := afterCycle t) ht hj]
    exact rest.steps
  pos := Nat.succ_pos k
  le := Nat.succ_le_succ rest.le
  all := fun hm => congrArg (· + 1) (rest.all hm)
  slot := rest.slot.trans (fetchAndExec_slot h :)
  loadClosed := rest.loadClosed

/-- The rest of a frame, by induction on the cycles left in its batch. -/
theorem batch_is_steps {n j : Nat} {s : State} (hs : s.mode = .running) (hj : j + (n + 1) = Config.ipf) :
    ∃ k u, BatchIsSteps (n + 1) j k s u := by
  induction n generalizing j s with
  | zero =>
    obtain ⟨t, ht⟩ := fetchAndExec_answers s
    exact ⟨1, _, .last hs hj ht fun _ => rfl⟩
  | succ n ih =>
    obtain ⟨t, ht⟩ := fetchAndExec_answers s
    by_cases hm : t.mode = .running
    · obtain ⟨k, u, hrest⟩ := ih (j := j + 1) (s := afterCycle t) hm (by omega)
      exact ⟨k + 1, u, hrest.cons hs ht hm (by omega)⟩
    · exact ⟨1, _, .last hs hj ht fun hrun => absurd hrun hm⟩

@[simp] theorem tickIfRunning_loadable (s : State) : (tickIfRunning s).loadable = s.loadable := by
  unfold tickIfRunning
  split <;> rfl

theorem closeLoad_of_closed {s : State} (h : s.loadable = false) : closeLoad s = s := by
  rw [closeLoad, ← h]

/-- Settles O57: the whole batch from slot 0, then the end of the `Frame`; the cycles have closed the time of a `Load`
already. -/
theorem frameIsItsSteps : Obligations.FrameIsItsSteps := by
  intro s hs h0
  obtain ⟨k, u, hbatch⟩ := batch_is_steps (n := Config.ipfLessOne) (j := 0) hs (Nat.zero_add _)
  have same := sameControl_tickIfRunning u
  have hslot : (tickIfRunning u).slot = 0 := same.slot.trans (hbatch.slot.trans h0)
  have hclosed : closeLoad (tickIfRunning u) = tickIfRunning u :=
    closeLoad_of_closed ((tickIfRunning_loadable u).trans hbatch.loadClosed)
  have hframe : frame s = .next (tickIfRunning u) :=
    (frame_of_not_halted (by simp [hs])).trans (congrArg (thenApply · tickIfRunning) hbatch.loop)
  have hsteps := hbatch.steps
  rw [atSlot_of_slot_eq h0, atSlot_of_slot_eq hslot] at hsteps
  refine ⟨tickIfRunning u, k, ?_, hbatch.pos, hbatch.le, hsteps, hslot, fun hrun => ?_⟩
  · rw [hostMove_frame h0, hframe, thenApply_next, hclosed]
  · exact hbatch.all (same.mode.symm.trans hrun)

end Sys2Proof.Machine
end

section
/-! The family of 70_reset_and_hazards.md: what `Reset` leaves, where `Load` puts its image and when it has no
meaning, and that a finished program stays finished. -/

namespace Sys2Proof.Machine

/-! ### The state after Reset (R39, R230) -/

@[simp] theorem hostReset_reg (s : State) (z : RegIx) : (hostReset s).reg z = 0 := by
  simp [State.reg, hostReset, State.reset]

@[simp] theorem hostReset_pixel (s : State) (px : PixelX) (py : PixelY) : (hostReset s).pixel px py = false := by
  simp [State.pixel, hostReset, State.reset]

theorem hostReset_byteAt (s : State) (a : Nat) : (hostReset s).byteAt a = resetByte a := rfl

theorem length_font : Config.font.length = 80 := rfl

/-- Inside the font an unlisted address reads as the font's byte (R53). -/
theorem getElem?_font {a : Nat} (h : a < 80) : Config.font[a]? = some (resetByte a) := by
  have hfont : a < Config.font.length := length_font.symm ▸ h
  rw [resetByte, List.getD_eq_getElem _ _ hfont, List.getElem?_eq_getElem hfont]

/-- Behind the font an unlisted address reads as 0 (R39). -/
theorem resetByte_of_le {a : Nat} (h : 80 ≤ a) : resetByte a = 0 := List.getD_eq_default _ _ h

/-- The first fetch after `Reset` finds the two zero bytes at 0x200 (R232). -/
theorem fetch_hostReset (s : State) : fetch (hostReset s) = some 0 := by
  have hpc : (hostReset s).pc.toNat = 0x200 := rfl
  rw [fetch_of_pc_le (by omega), hpc, hostReset_byteAt, hostReset_byteAt, resetByte_of_le (by decide),
    resetByte_of_le (by decide)]
  rfl

/-- Settles O53. -/
theorem resetSetsEverything : Obligations.ResetSetsEverything := fun s =>
  ⟨hostReset s, rfl, hostReset_reg s, rfl, rfl, rfl, rfl, rfl, rfl, rfl, rfl, rfl, hostReset_pixel s,
    fun _ ha => (getElem?_font ha).symm, fun _ ha _ => resetByte_of_le ha,
    Bool.eq_false_iff.2 fun htone => ((tone_iff _).1 htone).2 rfl⟩

/-- Settles O59: the zero word is illegal, and its fault entry leaves `pc` at 0x200. -/
theorem emptyMachineFaultsAtOnce : Obligations.EmptyMachineFaultsAtOnce := by
  intro s
  have hillegal : decodeWord 0 = .illegal .family0 := by decide
  have hstep : step (hostReset s) = .next (closeSlot (afterCycle (raise .illegalInstruction 0 (hostReset s)))) := by
    rw [step_eq_of_running rfl, fetchAndExec_of_illegal (fetch_hostReset s) hillegal, thenApply_next]
  exact ⟨hostReset s, _, rfl, hstep, rfl, rfl, rfl, rfl⟩

/-! ### Load (R233) -/

/-- Directly after `Reset`, the window for `Load` is open and only the length decides. -/
theorem loadImage_hostReset (image : List Byte) (s : State) : loadImage image (hostReset s) =
    if image.length ≤ 3584 then .next (closeLoad (putBytes 0x200 image (hostReset s))) else .refused .imageTooLong :=
  if_pos ⟨rfl, rfl⟩

/-- A schedule of one move is that move. -/
theorem hostRun_singleton (e : HostMove) (s : State) : hostRun [e] s = hostMove e s := by
  unfold hostRun
  cases hostMove e s <;> rfl

theorem hostRun_reset_load (image : List Byte) (s : State) :
    hostRun [.reset, .load image] s = loadImage image (hostReset s) :=
  hostRun_singleton (.load image) (hostReset s)

/-- Between frames, a `Load` whose window is closed has no meaning. -/
theorem hostMove_load_of_closed {s : State} (h0 : s.slot = 0) (hclosed : s.loadable = false) (image : List Byte) :
    hostMove (.load image) s = .refused .loadNotAfterReset := by
  have hwindow : ¬ (s.loadable = true ∧ s.mode = .running) := fun h => by simp [hclosed] at h
  exact (if_pos h0).trans (if_neg hwindow)

/-- A `Cycle` closes the window for `Load`. -/
theorem cycle_loadable {s t : State} (h : cycle s = .next t) : t.loadable = false := by
  obtain ⟨u, -, rfl⟩ := thenApply_eq_next h
  rfl

/-! ### After a move of the host other than Reset, no Load (R208, R240) -/

theorem batch_slot {n : Nat} {s t : State} (h : batch n s = .next t) : t.slot = s.slot := by
  induction n generalizing s with
  | zero =>
    obtain rfl : s = t := by simpa [batch] using h
    rfl
  | succ n ih =>
    obtain ⟨-, u, hu, hrest⟩ | rfl := batch_succ_next h
    · exact (ih hrest).trans (fetchAndExec_slot hu :)
    · rfl

theorem frame_slot {s t : State} (h : frame s = .next t) : t.slot = s.slot := by
  obtain rfl | ⟨u, hu, rfl⟩ := frame_next h
  · rfl
  · exact (sameControl_tickIfRunning u).slot.trans (batch_slot hu)

theorem keyDown_slot {k : Nat} {s t : State} (h : keyDown k s = .next t) : t.slot = s.slot := by
  obtain ⟨-, r, rfl⟩ | rfl := keyDown_next h <;> rfl

/-- Every move of the host but `Reset` ends between frames with the window for `Load` closed. -/
theorem hostMove_closes_load {e : HostMove} {s t : State} (he : e ≠ .reset) (h : hostMove e s = .next t) :
    t.slot = 0 ∧ t.loadable = false := by
  obtain ⟨hr, -⟩ | ⟨h0, image, -, hl⟩ | ⟨h0, -, u, hf, rfl⟩ | ⟨h0, k, -, u, hk, rfl⟩ := hostMove_next h
  · exact absurd hr he
  · obtain ⟨-, -, -, rfl⟩ := loadImage_next hl
    exact ⟨h0, rfl⟩
  · exact ⟨(frame_slot hf).trans h0, rfl⟩
  · exact ⟨(keyDown_slot hk).trans h0, rfl⟩

/-- Settles O54: after `Reset` the length decides; a `Cycle` and every other move of the host close the window. -/
theorem loadPlacesTheImage : Obligations.LoadPlacesTheImage := by
  intro image s
  refine ⟨fun hle => ?_, fun hgt => ?_, fun t ht h0 => hostMove_load_of_closed h0 (cycle_loadable ht) image, ?_⟩
  · refine ⟨_, (hostRun_reset_load image s).trans ((loadImage_hostReset image s).trans (if_pos hle)), ?_, ?_, ?_, ?_⟩
    · exact fun _ hj => byteAt_putBytes_inside (s := hostReset s) reset_memory_wf 0x200 image hj
    · exact fun _ ha => byteAt_putBytes_outside (hostReset s) image ha
    · exact onlyChanges_of_eq_takeParts rfl
    · exact hostMove_load_of_closed rfl rfl
  · rw [hostRun_reset_load, loadImage_hostReset, if_neg (Nat.not_le.2 hgt)]
  · intro e t he ht
    obtain ⟨h0, hclosed⟩ := hostMove_closes_load he ht
    exact hostMove_load_of_closed h0 hclosed image

/-! ### A finished program (R238) -/

/-- A jump to its own address changes nothing. -/
theorem exec_jp_self {nnn : Addr12} {s : State} (h : immAddr nnn = s.pc) : exec (.jp nnn) s = .next s := by
  have hback : setPc (immAddr nnn) (advance s) = s := by rw [h]; rfl
  exact congrArg Host.Outcome.next hback

/-- The bookkeeping after a `Cycle` changes the timers and the model's own fields. -/
theorem onlyChanges_closeSlot_afterCycle (s : State) : OnlyChanges [.dt, .st, .model] s (closeSlot (afterCycle s)) := by
  apply onlyChanges_of_eq_takeParts
  rw [closeSlot_eq]
  rfl

theorem fetch_congr {s t : State} (hpc : t.pc = s.pc) (hmem : t.mem = s.mem) : fetch t = fetch s := by
  simp only [fetch, State.byteAt, hpc, hmem]

/-- Whether a program has finished depends on `MODE`, `pc` and memory only. -/
theorem Finished.congr {s t : State} (h : Finished s) (hmode : t.mode = s.mode) (hpc : t.pc = s.pc)
    (hmem : t.mem = s.mem) : Finished t := by
  rw [Finished, hmode, fetch_congr hpc hmem, hpc]
  exact h

/-- Settles O58: the cycle of a jump to itself changes nothing, so a step does the bookkeeping alone. -/
theorem finishedIsFinal : Obligations.FinishedIsFinal := by
  intro s hfin
  have ⟨hs, w, nnn, hf, hd, hself⟩ := hfin
  have hstep : step s = .next (closeSlot (afterCycle s)) := by
    rw [step_eq_of_running hs, fetchAndExec_of_instr hf hd, exec_jp_self hself, thenApply_next]
  refine ⟨_, hstep, ?_, onlyChanges_closeSlot_afterCycle s⟩
  exact hfin.congr (closeSlot_mode _) (closeSlot_pc _) (closeSlot_mem _)

end Sys2Proof.Machine
end
